-- ==== Sys2Proof/Word.lean ====
section
/-! DEFINITION. The word types of the YODEL DSP engine: a binary64 pattern (00_scope.md R12), a 32-bit
register (10_state.md R31) and a 32-bit command word (30_encoding.md R140). -/

namespace Sys2Proof

/-- One F value: the 64 bits of an IEEE 754 binary64 datum (00_scope.md R12). Every sample, coefficient,
parameter and DM cell is one; any bit pattern is a legal content (20_memory.md R105). -/
abbrev F := BitVec 64

/-- A 32-bit unsigned register (10_state.md R31, type `u32` of R40). -/
abbrev U32 := BitVec 32

/-- A command word (30_encoding.md R140). -/
abbrev CmdWord := BitVec 32

end Sys2Proof
end

