-- ==== Sys2Proof/Machine/Ints.lean ====
section
/-! DEFINITION. The integer helper functions of 00_scope.md R19, over the unbounded naturals. -/

namespace Sys2Proof.Machine

/-- `ispow2(n)`: `n ≥ 1` and `n & (n-1) == 0` (00_scope.md R19). -/
def ispow2 (n : Nat) : Bool := decide (1 ≤ n) && (n &&& (n - 1)) == 0

/-- `nextpow2(n)`: the least power of two not below `n`; 1 for `n ≤ 1` (00_scope.md R19). -/
def nextpow2 (n : Nat) : Nat := if n ≤ 1 then 1 else 2 ^ (Nat.log2 (n - 1) + 1)

/-- `bitrev(i, b)`: bit `j` of the result is bit `b-1-j` of `i`, for `j < b` (00_scope.md R19). -/
def bitrev (i : Nat) : Nat → Nat
  | 0 => 0
  | b + 1 => (i % 2) * 2 ^ b + bitrev (i / 2) b

end Sys2Proof.Machine
end

