-- ==== Sys2Proof/Config.lean ====
section
/-! DEFINITION. What an implementation fixes (the parameters of 00_scope.md R9) and the values the spec
leaves free (93_implementation_defined.md I1, I2, I6): opaque constants with no body. -/

namespace Sys2Proof

/-- `DL_NEIGH`: which neighbour slot the delay line interpolates towards (00_scope.md R9, 42_delay_line.md R266).
`next` is `+1`, `prev` is `-1`. -/
inductive DlNeigh where
  | next
  | prev
deriving DecidableEq, Repr

/-- `BQ_BP_VARIANT`: the cookbook band-pass form of the BP design mode (00_scope.md R9, 43_iir_filters.md R317). -/
inductive BpVariant where
  | peak0dB
  | skirt
deriving DecidableEq, Repr

/-- `HOST_BYTE_ORDER`: the byte lanes of a slot on a byte-addressed host bus (00_scope.md R9, 20_memory.md R108). -/
inductive ByteOrder where
  | little
  | big
deriving DecidableEq, Repr

/-- The implementation parameters of 00_scope.md R9. They are arguments of the model: `State` carries one such
record, no step changes it, and every rule holds for any record that meets `Params.wf`. -/
structure Params where
  /-- `DMWORDS`, cells of data memory. -/
  dmWords : Nat := 65536
  /-- `NMAX`, largest FFT size. -/
  nmax : Nat := 4096
  /-- `DFTMAX`, largest DFT size. -/
  dftMax : Nat := 64
  /-- `WINMAX`, largest window length. -/
  winMax : Nat := 4096
  /-- `DLMAX`, largest delay-line buffer length. -/
  dlMax : Nat := 65536
  /-- `BLKMAX`, largest block length and convolution frame. -/
  blkMax : Nat := 4096
  /-- `IRMAX`, largest impulse response and WS kernel. -/
  irMax : Nat := 4096
  /-- `NBQ`, number of biquad sections. -/
  nbq : Nat := 8
  /-- `DL_NEIGH`. -/
  dlNeigh : DlNeigh := .next
  /-- `BQ_BP_VARIANT`. -/
  bpVariant : BpVariant := .peak0dB
  /-- `ULPT`, in units in the last place. A rational number is enough: whether a result keeps the bound is a question about
  finitely many pairs of an operand and a result, and some rational answers all of them as a given real does. -/
  ulpt : Rat := 1
  /-- `HOST_BYTE_ORDER`. -/
  hostByteOrder : ByteOrder := .little
deriving DecidableEq, Repr

/-- The defaults of 00_scope.md R9. -/
def Params.default : Params := {}

/-- The constraint column of 00_scope.md R9, no more. -/
def Params.wf (p : Params) : Bool :=
  decide (1 ≤ p.dmWords) && decide (p.dmWords ≤ 2 ^ 32) &&
  Machine.ispow2 p.nmax && decide (4 ≤ p.nmax) &&
  decide (1 ≤ p.dftMax) &&
  decide (2 ≤ p.winMax) &&
  Machine.ispow2 p.dlMax &&
  decide (1 ≤ p.blkMax) &&
  decide (3 ≤ p.irMax) &&
  decide (2 ≤ p.nbq) && decide (p.nbq ≤ 48) &&
  decide ((p.ulpt.den : Int) ≤ 2 * p.ulpt.num)

/-- The sizes that `FC_N` and `DL_LEN` can take fit a 32-bit register. DEDUCED from 00_scope.md R10, which says that a value
written to a 32-bit register never wraps; R9 itself sets no upper bound (log 1). -/
def Params.fits (p : Params) : Bool := decide (p.nmax < 2 ^ 32) && decide (p.dlMax < 2 ^ 32)

/-- The operations that can produce a NaN (00_scope.md R12, R14, R15). -/
inductive FOp where
  | add | sub | mul | div | neg | sqrt
  | sin | cos | exp | pow10 | log10 | atan2
deriving DecidableEq, Repr

/-- The memories whose content after hardware reset is unspecified (10_state.md R71, 20_memory.md R113). -/
inductive MemId where
  | dm | winCoef | dlBuf | cvIr | cvOv | fcHr | fcHi | fcOv
deriving DecidableEq, Repr

namespace Config

/-- FREE VALUE (log 3). The bits from which the sign and payload of a NaN produced by an operation are taken: 00_scope.md
R15 and 93_implementation_defined.md I2 leave both unspecified. -/
opaque nanDraw : FOp → F → F → F

/-- FREE VALUE (log 2). What cell `a` of a memory holds after hardware reset number `k` until something writes it:
20_memory.md R113, 93_implementation_defined.md I1 (`any value`). -/
opaque powerOn : Nat → MemId → Nat → F

/-- FREE VALUES (log 4). The configured functions of 00_scope.md R14, before the properties R14 (a), (b), (c) are imposed
on them (Machine/Num.lean). -/
opaque sinDraw : F → F
/-- See `sinDraw`. -/
opaque cosDraw : F → F
/-- See `sinDraw`. -/
opaque expDraw : F → F
/-- See `sinDraw`. -/
opaque pow10Draw : F → F
/-- See `sinDraw`. -/
opaque log10Draw : F → F
/-- See `sinDraw`. -/
opaque atan2Draw : F → F → F

end Config

end Sys2Proof
end

