-- ==== Sys2Proof/Machine/Binary64.lean ====
section
/-! DEFINITION. IEEE 754 binary64 on bit patterns, as 00_scope.md R12, R13, R15, R16 use it: addition, subtraction,
multiplication, division, negation and square root rounded to nearest, ties to even; the ordered comparisons; the
conversions `float(n)`, `floor`, `ceil`. Every finite F value is a whole number of units of `2^-1074`, so each operation is
computed exactly on integers and narrowed once, in `roundMag`. Nothing is fused and no flag is kept. -/

namespace Sys2Proof.Machine

/-- How many units of `2^-1074`, the least positive binary64 value, make 1. -/
def fUnit : Nat := 2 ^ 1074

/-- The magnitude pattern of an infinity: exponent all ones, fraction zero. -/
def fInfMag : Nat := 0x7FF0000000000000

/-- Bits 62:0, the magnitude pattern. Magnitude patterns of non-NaN values are ordered as the values are. -/
def fmag (x : F) : Nat := x.toNat % 2 ^ 63

/-- Bit 63, the sign. -/
def fneg? (x : F) : Bool := decide (2 ^ 63 ≤ x.toNat)

/-- A pattern from a sign and a magnitude pattern. -/
def fpack (neg : Bool) (mag : Nat) : F := BitVec.ofNat 64 ((if neg then 2 ^ 63 else 0) + mag)

def isNaN (x : F) : Bool := decide (fInfMag < fmag x)
def isInf (x : F) : Bool := decide (fmag x = fInfMag)
/-- `isfinite(v)` (00_scope.md R16). -/
def isfinite (x : F) : Bool := decide (fmag x < fInfMag)
def isZero (x : F) : Bool := decide (fmag x = 0)

/-- The magnitude of a finite value in units of `2^-1074`; subnormals are exact (00_scope.md R15). -/
def fscaled (x : F) : Nat :=
  if fmag x / 2 ^ 52 = 0 then fmag x % 2 ^ 52
  else (2 ^ 52 + fmag x % 2 ^ 52) * 2 ^ (fmag x / 2 ^ 52 - 1)

/-- The value of a finite F in units of `2^-1074`. -/
def fval (x : F) : Int := if fneg? x then -(fscaled x : Int) else fscaled x

/-- `n / d` to the nearest integer, ties to even. -/
def roundDiv (n d : Nat) : Nat :=
  let m := n / d
  let r := n % d
  if d < 2 * r || (2 * r == d && m % 2 == 1) then m + 1 else m

/-- The magnitude pattern nearest to `n / d` units of `2^-1074`, ties to even, overflow to infinity
(roundTiesToEven, 00_scope.md R12). The significand unit is `2^sh` of those units; `sh * 2^52 + m` is the pattern of
`m * 2^sh` for a significand `m ≤ 2^53` whether it is subnormal, normal or has just carried into the next binade. -/
def roundMag (n d : Nat) : Nat :=
  let sh := Nat.log2 (n / d) - 52
  min (sh * 2 ^ 52 + roundDiv n (d * 2 ^ sh)) fInfMag

/-- A NaN whose sign and payload are those of the draw `d` (00_scope.md R15). -/
def nanOf (d : F) : F :=
  fpack (fneg? d) (fInfMag + (if fmag d % 2 ^ 52 = 0 then 2 ^ 51 else fmag d % 2 ^ 52))

/-- The NaN an operation produces: unspecified sign and payload (00_scope.md R15, log 3). -/
def fnan (op : FOp) (x y : F) : F := nanOf (Config.nanDraw op x y)

/-- `+0.0`. -/
def fzero : F := 0x0000000000000000#64
/-- `1.0`. -/
def fone : F := 0x3FF0000000000000#64
/-- `2.0`. -/
def ftwo : F := 0x4000000000000000#64

/-- The exact value `n / d` units (`d ≠ 0`) with sign `neg`, rounded. -/
def roundF (neg : Bool) (n d : Nat) : F := fpack neg (roundMag n d)

/-- An exact sum `v` of two values in units, rounded; an exact zero is `-0.0` only when both operands are negative
(IEEE 754 roundTiesToEven). -/
def roundSum (bothNeg : Bool) (v : Int) : F :=
  if v = 0 then fpack bothNeg 0 else roundF (decide (v < 0)) v.natAbs 1

/-- Sign reversal of a pattern. -/
def flipSign (x : F) : F := fpack (!fneg? x) (fmag x)

/-- Addition of two patterns; a NaN result is drawn under the name `op`. -/
def faddAs (op : FOp) (x y z : F) : F :=
  if isNaN x || isNaN y then fnan op x y
  else if isInf x then (if isInf z && fneg? x != fneg? z then fnan op x y else x)
  else if isInf z then z
  else roundSum (fneg? x && fneg? z) (fval x + fval z)

/-- IEEE 754 addition (00_scope.md R12). -/
def fadd (x y : F) : F := faddAs .add x y y

/-- IEEE 754 subtraction (00_scope.md R12): the sum with the reversed second operand. -/
def fsub (x y : F) : F := faddAs .sub x y (flipSign y)

/-- IEEE 754 multiplication (00_scope.md R12). -/
def fmul (x y : F) : F :=
  if isNaN x || isNaN y then fnan .mul x y
  else if isInf x then (if isZero y then fnan .mul x y else fpack (fneg? x != fneg? y) fInfMag)
  else if isInf y then (if isZero x then fnan .mul x y else fpack (fneg? x != fneg? y) fInfMag)
  else roundF (fneg? x != fneg? y) (fscaled x * fscaled y) fUnit

/-- IEEE 754 division (00_scope.md R12): a finite non-zero value over zero is an infinity, `0/0` and `∞/∞` are NaN. -/
def fdiv (x y : F) : F :=
  if isNaN x || isNaN y then fnan .div x y
  else if isInf x then (if isInf y then fnan .div x y else fpack (fneg? x != fneg? y) fInfMag)
  else if isInf y then fpack (fneg? x != fneg? y) 0
  else if isZero y then (if isZero x then fnan .div x y else fpack (fneg? x != fneg? y) fInfMag)
  else roundF (fneg? x != fneg? y) (fscaled x * fUnit) (fscaled y)

/-- IEEE 754 negate (00_scope.md R12); of a NaN, a NaN of unspecified sign and payload (R15). -/
def fneg (x : F) : F := if isNaN x then fnan .neg x x else flipSign x

/-- The integer square root of `n` from the bits below `2^k`, given the bits `acc` above. -/
def isqrtFrom (n : Nat) : Nat → Nat → Nat
  | 0, acc => acc
  | k + 1, acc => if (acc + 2 ^ k) * (acc + 2 ^ k) ≤ n then isqrtFrom n k (acc + 2 ^ k) else isqrtFrom n k acc

/-- The largest `s` with `s * s ≤ n`. -/
def isqrt (n : Nat) : Nat := isqrtFrom n (Nat.log2 n / 2 + 1) 0

/-- IEEE 754 squareRoot (00_scope.md R12). In units, the root of `v` is the root of `v * 2^1074`; twice that root is
taken with its remainder folded into one sticky bit, so that rounding `n / 4` rounds the exact root. -/
def fsqrt (x : F) : F :=
  if isNaN x then fnan .sqrt x x
  else if isZero x then x
  else if fneg? x then fnan .sqrt x x
  else if isInf x then x
  else
    let n := 4 * (fscaled x * fUnit)
    let s := isqrt n
    roundF false (2 * s + (if s * s = n then 0 else 1)) 4

/-- The order key of a non-NaN value: infinities included, both zeros 0. -/
def fkey (x : F) : Int := if fneg? x then -(fmag x : Int) else fmag x

/-- `x < y`: false when either is a NaN (00_scope.md R15). -/
def flt (x y : F) : Bool := !isNaN x && !isNaN y && decide (fkey x < fkey y)
/-- `x <= y`: false when either is a NaN (00_scope.md R15). -/
def fle (x y : F) : Bool := !isNaN x && !isNaN y && decide (fkey x ≤ fkey y)
/-- `x == y`: false when either is a NaN, and `-0.0 == +0.0` (00_scope.md R15). -/
def feq (x y : F) : Bool := !isNaN x && !isNaN y && decide (fkey x = fkey y)

/-- `float(n)`: an integer to F, roundTiesToEven (00_scope.md R16). -/
def fofInt (n : Int) : F := roundSum false (n * fUnit)
/-- `float(n)` of a natural. -/
def fofNat (n : Nat) : F := fofInt n

/-- `floor(v)` of a finite value (00_scope.md R16). -/
def ffloor (x : F) : Int := fval x / (fUnit : Int)
/-- `ceil(v)` of a finite value (00_scope.md R16). -/
def fceil (x : F) : Int := -((-fval x) / (fUnit : Int))

/-- `clampF(v, lo, hi)` (00_scope.md R19). -/
def clampF (v lo hi : F) : F := if flt v lo then lo else if flt hi v then hi else v

/-- `nextpow2F(v)`: the least `2^p` with `float(2^p) >= v`, 1 for `v ≤ 1.0` (00_scope.md R19). An integer is at least `v`
exactly when it is at least `ceil(v)`. -/
def nextpow2F (v : F) : Nat := nextpow2 (fceil v).toNat

/-- `PI` (00_scope.md R17). -/
def cPI : F := 0x400921FB54442D18#64
/-- `TWO_PI` (00_scope.md R17). -/
def cTWO_PI : F := 0x401921FB54442D18#64
/-- `FOUR_PI` (00_scope.md R17). -/
def cFOUR_PI : F := 0x402921FB54442D18#64

end Sys2Proof.Machine
end

