-- ==== Sys2Proof/Syntax.lean ====
section
/-! DEFINITION. The commands of the engine: one constructor per row of the opcode map (30_encoding.md R145). A command
carries no immediate and no register number (R141); `sect` and `band` are the `idx` field of the rows that use it, `mask` the
output mask that `SVF.PROC` carries in its `mode` field. -/

namespace Sys2Proof

/-- A legal command (30_encoding.md R145). -/
inductive Instr where
  /-- `SYS.NOP`, 48_system.md R506. -/
  | sysNop
  /-- `SYS.CLRERR`, 48_system.md R507. -/
  | sysClrerr
  /-- `SYS.RESET`, 48_system.md R508. -/
  | sysReset
  /-- `DFT.INIT`, 40_transform.md R201. -/
  | dftInit
  /-- `DFT.FWD`, 40_transform.md R202. -/
  | dftFwd
  /-- `DFT.INV`, 40_transform.md R203. -/
  | dftInv
  /-- `FFT.INIT`, 40_transform.md R210. -/
  | fftInit
  /-- `FFT.FWD`, 40_transform.md R220. -/
  | fftFwd
  /-- `FFT.INV`, 40_transform.md R221. -/
  | fftInv
  /-- `WIN.SET.RECT`, 41_window.md R243. -/
  | winSetRect
  /-- `WIN.SET.HANN`, 41_window.md R244. -/
  | winSetHann
  /-- `WIN.SET.HAMM`, 41_window.md R245. -/
  | winSetHamm
  /-- `WIN.SET.BLACK`, 41_window.md R246. -/
  | winSetBlack
  /-- `WIN.PROC`, 41_window.md R247. -/
  | winProc
  /-- `DL.INIT`, 42_delay_line.md R262. -/
  | dlInit
  /-- `DL.SETDELAY`, 42_delay_line.md R264. -/
  | dlSetdelay
  /-- `DL.PROC`, 42_delay_line.md R267. -/
  | dlProc
  /-- `DL.CLEAR`, 42_delay_line.md R268. -/
  | dlClear
  /-- `SP.DESIGN.LP`, 43_iir_filters.md R301. -/
  | spDesignLp
  /-- `SP.DESIGN.HP`, 43_iir_filters.md R302. -/
  | spDesignHp
  /-- `SP.PROC`, 43_iir_filters.md R303. -/
  | spProc
  /-- `SP.RESET`, 43_iir_filters.md R304. -/
  | spReset
  /-- `BQ.DESIGN.LP`, 43_iir_filters.md R315. -/
  | bqDesignLp (sect : Nat)
  /-- `BQ.DESIGN.HP`, 43_iir_filters.md R316. -/
  | bqDesignHp (sect : Nat)
  /-- `BQ.DESIGN.BP`, 43_iir_filters.md R317. -/
  | bqDesignBp (sect : Nat)
  /-- `BQ.DESIGN.AP`, 43_iir_filters.md R318. -/
  | bqDesignAp (sect : Nat)
  /-- `BQ.DESIGN.NOTCH`, 43_iir_filters.md R319. -/
  | bqDesignNotch (sect : Nat)
  /-- `BQ.DESIGN.PEAK`, 43_iir_filters.md R320. -/
  | bqDesignPeak (sect : Nat)
  /-- `BQ.DESIGN.LS`, 43_iir_filters.md R321. -/
  | bqDesignLs (sect : Nat)
  /-- `BQ.DESIGN.HS`, 43_iir_filters.md R322. -/
  | bqDesignHs (sect : Nat)
  /-- `BQ.CUSTOM`, 43_iir_filters.md R312. -/
  | bqCustom (sect : Nat)
  /-- `BQ.PROC`, 43_iir_filters.md R323. -/
  | bqProc (sect : Nat)
  /-- `BQ.RESET`, 43_iir_filters.md R324. -/
  | bqReset (sect : Nat)
  /-- `SVF.DESIGN`, 43_iir_filters.md R330. -/
  | svfDesign
  /-- `SVF.PROC`, 43_iir_filters.md R331. -/
  | svfProc (mask : Nat)
  /-- `SVF.RESET`, 43_iir_filters.md R332. -/
  | svfReset
  /-- `CB.INIT`, 44_comb.md R361. -/
  | cbInit
  /-- `CB.DESIGN.FB`, 44_comb.md R363. -/
  | cbDesignFb
  /-- `CB.DESIGN.FF`, 44_comb.md R364. -/
  | cbDesignFf
  /-- `CB.DESIGN.AP`, 44_comb.md R365. -/
  | cbDesignAp
  /-- `CB.PROC`, 44_comb.md R366. -/
  | cbProc
  /-- `CB.RESET`, 44_comb.md R367. -/
  | cbReset
  /-- `CV.INIT`, 45_convolution.md R402. -/
  | cvInit
  /-- `CV.PROC`, 45_convolution.md R403. -/
  | cvProc
  /-- `CV.RESET`, 45_convolution.md R404. -/
  | cvReset
  /-- `FC.INIT`, 45_convolution.md R412. -/
  | fcInit
  /-- `FC.PROC`, 45_convolution.md R413. -/
  | fcProc
  /-- `FC.RESET`, 45_convolution.md R414. -/
  | fcReset
  /-- `WS.DESIGN.LP`, 46_kernel_design.md R447. -/
  | wsDesignLp
  /-- `WS.DESIGN.HP`, 46_kernel_design.md R448. -/
  | wsDesignHp
  /-- `WS.DESIGN.BR`, 46_kernel_design.md R449. -/
  | wsDesignBr
  /-- `WS.DESIGN.BP`, 46_kernel_design.md R450. -/
  | wsDesignBp
  /-- `CU.DESIGN.LIN`, 46_kernel_design.md R453. -/
  | cuDesignLin
  /-- `CU.DESIGN.DB`, 46_kernel_design.md R454. -/
  | cuDesignDb
  /-- `PEQ.INIT`, 47_parametric_eq.md R481. -/
  | peqInit
  /-- `PEQ.SETBAND`, 47_parametric_eq.md R482. -/
  | peqSetband (band : Nat)
  /-- `PEQ.PROC`, 47_parametric_eq.md R483. -/
  | peqProc
  /-- `PEQ.RESET`, 47_parametric_eq.md R484. -/
  | peqReset
deriving DecidableEq, Repr

end Sys2Proof
end

