-- ==== Sys2Proof/WellFormed.lean ====
section
/-! DEFINITION. Which commands are well formed: the field ranges of format C (30_encoding.md R140, R143). -/

namespace Sys2Proof

/-- The `idx` field has eight bits, all of which decode (30_encoding.md R142). -/
def idxFits (i : Nat) : Bool := decide (i < 256)

/-- Bits 7:4 of the `SVF.PROC` mask must be zero (30_encoding.md R143). -/
def maskFits (m : Nat) : Bool := decide (m < 16)

/-- The fields of a command fit its encoding. -/
def Instr.wf : Instr → Bool
  | .sysNop => true
  | .sysClrerr => true
  | .sysReset => true
  | .dftInit => true
  | .dftFwd => true
  | .dftInv => true
  | .fftInit => true
  | .fftFwd => true
  | .fftInv => true
  | .winSetRect => true
  | .winSetHann => true
  | .winSetHamm => true
  | .winSetBlack => true
  | .winProc => true
  | .dlInit => true
  | .dlSetdelay => true
  | .dlProc => true
  | .dlClear => true
  | .spDesignLp => true
  | .spDesignHp => true
  | .spProc => true
  | .spReset => true
  | .bqDesignLp sect => idxFits sect
  | .bqDesignHp sect => idxFits sect
  | .bqDesignBp sect => idxFits sect
  | .bqDesignAp sect => idxFits sect
  | .bqDesignNotch sect => idxFits sect
  | .bqDesignPeak sect => idxFits sect
  | .bqDesignLs sect => idxFits sect
  | .bqDesignHs sect => idxFits sect
  | .bqCustom sect => idxFits sect
  | .bqProc sect => idxFits sect
  | .bqReset sect => idxFits sect
  | .svfDesign => true
  | .svfProc mask => maskFits mask
  | .svfReset => true
  | .cbInit => true
  | .cbDesignFb => true
  | .cbDesignFf => true
  | .cbDesignAp => true
  | .cbProc => true
  | .cbReset => true
  | .cvInit => true
  | .cvProc => true
  | .cvReset => true
  | .fcInit => true
  | .fcProc => true
  | .fcReset => true
  | .wsDesignLp => true
  | .wsDesignHp => true
  | .wsDesignBr => true
  | .wsDesignBp => true
  | .cuDesignLin => true
  | .cuDesignDb => true
  | .peqInit => true
  | .peqSetband band => idxFits band
  | .peqProc => true
  | .peqReset => true

end Sys2Proof
end

