-- ==== Sys2Proof/Decode.lean ====
section
/-! DEFINITION. The decoder (30_encoding.md R140, R142, R143, R145), total on every word and rejecting by name, and the
encoder written from the same table. -/

namespace Sys2Proof

/-- Why a word is not legal (30_encoding.md R142, R143). Every one of them raises `E_ILLEGAL` (60_exceptions.md R610). -/
inductive Reject where
  /-- `w[31:24]` is in no row of R145. -/
  | reservedOpcode
  /-- `w[23:16]` is not in the row's mode set. -/
  | reservedMode
  /-- `w[15:8] ≠ 0` on a command that does not use `idx`. -/
  | unusedIdx
  /-- `w[7:0] ≠ 0`. -/
  | nonzeroZero
deriving DecidableEq, Repr

/-- Bits 31:24 of a command word (30_encoding.md R140). -/
def opField (w : CmdWord) : Nat := w.toNat / 2 ^ 24
/-- Bits 23:16. -/
def modeField (w : CmdWord) : Nat := w.toNat / 2 ^ 16 % 2 ^ 8
/-- Bits 15:8. -/
def idxField (w : CmdWord) : Nat := w.toNat / 2 ^ 8 % 2 ^ 8
/-- Bits 7:0. -/
def zeroField (w : CmdWord) : Nat := w.toNat % 2 ^ 8

/-- A row that does not use `idx`: the field must be 0 (30_encoding.md R142). -/
def noIdx (i : Instr) (idx : Nat) : Except Reject Instr :=
  if idx = 0 then .ok i else .error .unusedIdx

/-- A row with mode set `0` that does not use `idx`. -/
def plain (i : Instr) (mode idx : Nat) : Except Reject Instr :=
  if mode = 0 then noIdx i idx else .error .reservedMode

/-- A row with mode set `0` that uses `idx`. -/
def indexed (i : Nat → Instr) (mode idx : Nat) : Except Reject Instr :=
  if mode = 0 then .ok (i idx) else .error .reservedMode

/-- The row that `op` and `mode` select (30_encoding.md R145). -/
def decodeRow (op mode idx : Nat) : Except Reject Instr :=
  match op with
  | 0x00 => plain .sysNop mode idx
  | 0x01 => plain .sysClrerr mode idx
  | 0x02 => plain .sysReset mode idx
  | 0x10 => plain .dftInit mode idx
  | 0x11 => plain .dftFwd mode idx
  | 0x12 => plain .dftInv mode idx
  | 0x14 => plain .fftInit mode idx
  | 0x15 => plain .fftFwd mode idx
  | 0x16 => plain .fftInv mode idx
  | 0x20 =>
    match mode with
    | 0 => noIdx .winSetRect idx
    | 1 => noIdx .winSetHann idx
    | 2 => noIdx .winSetHamm idx
    | 3 => noIdx .winSetBlack idx
    | _ => .error .reservedMode
  | 0x21 => plain .winProc mode idx
  | 0x30 => plain .dlInit mode idx
  | 0x31 => plain .dlSetdelay mode idx
  | 0x32 => plain .dlProc mode idx
  | 0x33 => plain .dlClear mode idx
  | 0x40 =>
    match mode with
    | 0 => noIdx .spDesignLp idx
    | 1 => noIdx .spDesignHp idx
    | _ => .error .reservedMode
  | 0x41 => plain .spProc mode idx
  | 0x42 => plain .spReset mode idx
  | 0x50 =>
    match mode with
    | 0 => .ok (.bqDesignLp idx)
    | 1 => .ok (.bqDesignHp idx)
    | 2 => .ok (.bqDesignBp idx)
    | 3 => .ok (.bqDesignAp idx)
    | 4 => .ok (.bqDesignNotch idx)
    | 5 => .ok (.bqDesignPeak idx)
    | 6 => .ok (.bqDesignLs idx)
    | 7 => .ok (.bqDesignHs idx)
    | _ => .error .reservedMode
  | 0x51 => indexed .bqCustom mode idx
  | 0x52 => indexed .bqProc mode idx
  | 0x53 => indexed .bqReset mode idx
  | 0x60 => plain .svfDesign mode idx
  | 0x61 => if mode < 16 then noIdx (.svfProc mode) idx else .error .reservedMode
  | 0x62 => plain .svfReset mode idx
  | 0x70 => plain .cbInit mode idx
  | 0x71 =>
    match mode with
    | 0 => noIdx .cbDesignFb idx
    | 1 => noIdx .cbDesignFf idx
    | 2 => noIdx .cbDesignAp idx
    | _ => .error .reservedMode
  | 0x72 => plain .cbProc mode idx
  | 0x73 => plain .cbReset mode idx
  | 0x80 => plain .cvInit mode idx
  | 0x81 => plain .cvProc mode idx
  | 0x82 => plain .cvReset mode idx
  | 0x90 => plain .fcInit mode idx
  | 0x91 => plain .fcProc mode idx
  | 0x92 => plain .fcReset mode idx
  | 0xA0 =>
    match mode with
    | 0 => noIdx .wsDesignLp idx
    | 1 => noIdx .wsDesignHp idx
    | 2 => noIdx .wsDesignBr idx
    | 3 => noIdx .wsDesignBp idx
    | _ => .error .reservedMode
  | 0xB0 =>
    match mode with
    | 0 => noIdx .cuDesignLin idx
    | 1 => noIdx .cuDesignDb idx
    | _ => .error .reservedMode
  | 0xC0 => plain .peqInit mode idx
  | 0xC1 => indexed .peqSetband mode idx
  | 0xC2 => plain .peqProc mode idx
  | 0xC3 => plain .peqReset mode idx
  | _ => .error .reservedOpcode

/-- Decoding (30_encoding.md R142): a legal word selects exactly one row; no state is consulted. -/
def decode (w : CmdWord) : Except Reject Instr :=
  if zeroField w = 0 then decodeRow (opField w) (modeField w) (idxField w) else .error .nonzeroZero

/-- The legal command a word is, if it is one. -/
def decode? (w : CmdWord) : Option Instr :=
  match decode w with
  | .ok i => some i
  | .error _ => none

/-- The `opcode`, `mode` and `idx` fields of a command (30_encoding.md R145). -/
def Instr.fields : Instr → Nat × Nat × Nat
  | .sysNop => (0x00, 0, 0)
  | .sysClrerr => (0x01, 0, 0)
  | .sysReset => (0x02, 0, 0)
  | .dftInit => (0x10, 0, 0)
  | .dftFwd => (0x11, 0, 0)
  | .dftInv => (0x12, 0, 0)
  | .fftInit => (0x14, 0, 0)
  | .fftFwd => (0x15, 0, 0)
  | .fftInv => (0x16, 0, 0)
  | .winSetRect => (0x20, 0, 0)
  | .winSetHann => (0x20, 1, 0)
  | .winSetHamm => (0x20, 2, 0)
  | .winSetBlack => (0x20, 3, 0)
  | .winProc => (0x21, 0, 0)
  | .dlInit => (0x30, 0, 0)
  | .dlSetdelay => (0x31, 0, 0)
  | .dlProc => (0x32, 0, 0)
  | .dlClear => (0x33, 0, 0)
  | .spDesignLp => (0x40, 0, 0)
  | .spDesignHp => (0x40, 1, 0)
  | .spProc => (0x41, 0, 0)
  | .spReset => (0x42, 0, 0)
  | .bqDesignLp sect => (0x50, 0, sect)
  | .bqDesignHp sect => (0x50, 1, sect)
  | .bqDesignBp sect => (0x50, 2, sect)
  | .bqDesignAp sect => (0x50, 3, sect)
  | .bqDesignNotch sect => (0x50, 4, sect)
  | .bqDesignPeak sect => (0x50, 5, sect)
  | .bqDesignLs sect => (0x50, 6, sect)
  | .bqDesignHs sect => (0x50, 7, sect)
  | .bqCustom sect => (0x51, 0, sect)
  | .bqProc sect => (0x52, 0, sect)
  | .bqReset sect => (0x53, 0, sect)
  | .svfDesign => (0x60, 0, 0)
  | .svfProc mask => (0x61, mask, 0)
  | .svfReset => (0x62, 0, 0)
  | .cbInit => (0x70, 0, 0)
  | .cbDesignFb => (0x71, 0, 0)
  | .cbDesignFf => (0x71, 1, 0)
  | .cbDesignAp => (0x71, 2, 0)
  | .cbProc => (0x72, 0, 0)
  | .cbReset => (0x73, 0, 0)
  | .cvInit => (0x80, 0, 0)
  | .cvProc => (0x81, 0, 0)
  | .cvReset => (0x82, 0, 0)
  | .fcInit => (0x90, 0, 0)
  | .fcProc => (0x91, 0, 0)
  | .fcReset => (0x92, 0, 0)
  | .wsDesignLp => (0xA0, 0, 0)
  | .wsDesignHp => (0xA0, 1, 0)
  | .wsDesignBr => (0xA0, 2, 0)
  | .wsDesignBp => (0xA0, 3, 0)
  | .cuDesignLin => (0xB0, 0, 0)
  | .cuDesignDb => (0xB0, 1, 0)
  | .peqInit => (0xC0, 0, 0)
  | .peqSetband band => (0xC1, 0, band)
  | .peqProc => (0xC2, 0, 0)
  | .peqReset => (0xC3, 0, 0)

/-- A word from its fields: `op << 24 | mode << 16 | idx << 8` (30_encoding.md R145). -/
def packFields (op mode idx : Nat) : CmdWord := BitVec.ofNat 32 (op * 2 ^ 24 + mode * 2 ^ 16 + idx * 2 ^ 8)

/-- The word of a command (30_encoding.md R145). -/
def encode (i : Instr) : CmdWord := packFields i.fields.1 i.fields.2.1 i.fields.2.2

/-- The command the decoder reads from an instruction of `nbits` bits `w` of the opcode table. Every command is one 32-bit
word (30_encoding.md R140), which reaches the decoder whole in a `CMD` write; the bits above `nbits` are zero. -/
def decodeTableWord (nbits w : Nat) : Option Instr := decode? (BitVec.ofNat 32 (w % 2 ^ nbits))

end Sys2Proof
end

