-- ==== Sys2Proof/Machine/State.lean ====
section
/-! DEFINITION. The state of one engine (10_state.md R30), the host's pending transactions and what it has read, and the
state after reset (10_state.md R70, 70_reset_and_hazards.md R701). Plain data throughout. -/

namespace Sys2Proof.Machine

/-- A memory of F cells: (cell index, value) pairs, indices strictly rising. A cell that is not listed has not been written
since hardware reset; what it holds is a free value (20_memory.md R113, log 2). -/
abbrev Memory := List (Nat × F)

/-- The integer argument registers `r0` to `r7` (10_state.md R31). -/
structure IntArgs where
  r0 : U32
  r1 : U32
  r2 : U32
  r3 : U32
  r4 : U32
  r5 : U32
  r6 : U32
  r7 : U32
deriving DecidableEq, Repr

/-- The float argument registers `f0` to `f7` (10_state.md R32). -/
structure FloatArgs where
  f0 : F
  f1 : F
  f2 : F
  f3 : F
  f4 : F
  f5 : F
  f6 : F
  f7 : F
deriving DecidableEq, Repr

/-- WIN: `WIN_TYPE`, `WIN_LEN`, hidden memory `WIN_COEF` (10_state.md R43). -/
structure Window where
  kind : U32
  len : U32
  coef : Memory
deriving DecidableEq, Repr

/-- DL: `DL_FS`, `DL_MAXMS`, `DL_MS`, `DL_LEN`, `DL_WR`, `DL_RD`, `DL_FRAC`, hidden memory `DL_BUF` (10_state.md R44). -/
structure DelayLine where
  fs : F
  maxms : F
  ms : F
  len : U32
  wr : U32
  rd : U32
  frac : F
  buf : Memory
deriving DecidableEq, Repr

/-- SP: `SP_A0`, `SP_A1`, `SP_B1`, `SP_X1`, `SP_Y1` (10_state.md R45). -/
structure SinglePole where
  a0 : F
  a1 : F
  b1 : F
  x1 : F
  y1 : F
deriving DecidableEq, Repr

/-- One BQ section: normalised coefficients and the four state registers (10_state.md R46). -/
structure Biquad where
  b0 : F
  b1 : F
  b2 : F
  a1 : F
  a2 : F
  x1 : F
  x2 : F
  y1 : F
  y2 : F
deriving DecidableEq, Repr

/-- SVF: `SV_F`, `SV_Q`, `SV_X1`, `SV_X2` (10_state.md R47). -/
structure Svf where
  f : F
  q : F
  x1 : F
  x2 : F
deriving DecidableEq, Repr

/-- CB: `CB_MODE`, `CB_GAIN`, `CB_X1`, `CB_Y1` (10_state.md R48). -/
structure Comb where
  mode : U32
  gain : F
  x1 : F
  y1 : F
deriving DecidableEq, Repr

/-- CV: `CV_FRAME`, `CV_IRLEN`, hidden memories `CV_IR`, `CV_OV` (10_state.md R49). -/
structure DirectConv where
  frame : U32
  irlen : U32
  ir : Memory
  ov : Memory
deriving DecidableEq, Repr

/-- FC: `FC_FRAME`, `FC_IRLEN`, `FC_N`, hidden memories `FC_HR`, `FC_HI`, `FC_OV` (10_state.md R50). -/
structure FastConv where
  frame : U32
  irlen : U32
  n : U32
  hr : Memory
  hi : Memory
  ov : Memory
deriving DecidableEq, Repr

/-- PEQ: `PEQ_FS`, `PEQ_NB` (10_state.md R51). Its bands are BQ sections. -/
structure Peq where
  fs : F
  nb : U32
deriving DecidableEq, Repr

/-- The six faults (60_exceptions.md R600). They are recorded in the state and the machine goes on: no command ends a run. -/
inductive ErrCode where
  | illegal
  | notCfg
  | size
  | addr
  | index
  | param
deriving DecidableEq, Repr

/-- What the outside can do to the engine: the five host transactions (20_memory.md R104) and the assertion of hardware
reset between two of them (70_reset_and_hazards.md R700). Slots and cell addresses are unbounded: a slot beyond `0x3FF` or a
cell beyond `DMWORDS` is a legal transaction with a defined effect (10_state.md R41, 20_memory.md R105). -/
inductive HostEvent where
  | writeReg (slot : Nat) (v : BitVec 64)
  | readReg (slot : Nat)
  | writeDM (a : Nat) (v : BitVec 64)
  | readDM (a : Nat)
  | command (w : CmdWord)
  | hardwareReset
deriving DecidableEq, Repr

/-- The state of one engine and of its host port. -/
structure State where
  /-- The parameters of 00_scope.md R9; no step changes them. -/
  params : Params
  /-- `r0..r7`. -/
  r : IntArgs
  /-- `f0..f7`. -/
  f : FloatArgs
  /-- `STATUS.HALT` (10_state.md R35). -/
  halt : Bool
  /-- `ERRCODE` bits 7:0 (10_state.md R36). -/
  errcode : BitVec 8
  /-- `ERRCMD` (10_state.md R37). -/
  errcmd : CmdWord
  /-- `DFT_N` (10_state.md R42). -/
  dftN : U32
  /-- `FFT_N` (10_state.md R42). -/
  fftN : U32
  win : Window
  dl : DelayLine
  sp : SinglePole
  /-- The `NBQ` biquad sections, section `s` at position `s` (10_state.md R46). -/
  bq : List Biquad
  svf : Svf
  cb : Comb
  cv : DirectConv
  fc : FastConv
  peq : Peq
  /-- Data memory (20_memory.md R101). -/
  dm : Memory
  /-- The model's own: how many hardware resets have been asserted since power-on; the index of the free values that
  unwritten cells hold (log 2). -/
  resets : Nat
  /-- The model's own: the host transactions still to come, oldest first (log 6). -/
  host : List HostEvent
  /-- The model's own: the values the host's read transactions have returned, newest first (log 6). -/
  replies : List (BitVec 64)
deriving DecidableEq, Repr

/-- The reasons a step of the model could stop the machine. There is none: host accesses never fault (10_state.md R41,
20_memory.md R105), a command's fault is a recorded state (60_exceptions.md R604), and NaN and infinity are data (R616). -/
inductive Fault
deriving DecidableEq, Repr

/-- Why the model gives an instruction no meaning. -/
inductive Refusal where
  /-- Raised by an arm of `exec` whose instruction has no meaning yet (safe: nothing is claimed of it). No arm raises it. -/
  | notModelled (mnemonic : String)
deriving DecidableEq, Repr

/-- The machine right after hardware reset with the parameters `p` (00_scope.md R9, 70_reset_and_hazards.md R701): every
register at its reset value, no memory cell written, no transaction pending. -/
def State.resetWith (p : Params) : State :=
  { params := p
    r := ⟨0#32, 0#32, 0#32, 0#32, 0#32, 0#32, 0#32, 0#32⟩
    f := ⟨0#64, 0#64, 0#64, 0#64, 0#64, 0#64, 0#64, 0#64⟩
    halt := false
    errcode := 0#8
    errcmd := 0#32
    dftN := 0#32
    fftN := 0#32
    win := { kind := 0#32, len := 0#32, coef := [] }
    dl := { fs := 0#64, maxms := 0#64, ms := 0#64, len := 0#32, wr := 0#32, rd := 0#32, frac := 0#64, buf := [] }
    sp := { a0 := 0x3FF0000000000000#64, a1 := 0#64, b1 := 0#64, x1 := 0#64, y1 := 0#64 }
    bq := List.replicate p.nbq
      { b0 := 0x3FF0000000000000#64, b1 := 0#64, b2 := 0#64, a1 := 0#64, a2 := 0#64, x1 := 0#64, x2 := 0#64, y1 := 0#64, y2 := 0#64 }
    svf := { f := 0#64, q := 0#64, x1 := 0#64, x2 := 0#64 }
    cb := { mode := 1#32, gain := 0#64, x1 := 0#64, y1 := 0#64 }
    cv := { frame := 0#32, irlen := 0#32, ir := [], ov := [] }
    fc := { frame := 0#32, irlen := 0#32, n := 0#32, hr := [], hi := [], ov := [] }
    peq := { fs := 0#64, nb := 0#32 }
    dm := []
    resets := 0
    host := []
    replies := [] }

/-- The machine right after hardware reset with the default parameters of 00_scope.md R9 (log 1). -/
def State.reset : State := State.resetWith Params.default

end Sys2Proof.Machine
end

