-- ==== Sys2Proof/Machine/Flags.lean ====
section
/-! DEFINITION. The one flag of the hardware, `STATUS.HALT`, and the fault record beside it (10_state.md R35, R36, R53). No
command sets a carry, zero, overflow or floating-point flag, so there is no flag computation over results (R35, R53). -/

namespace Sys2Proof.Machine

/-- The code `ERRCODE` holds for a fault (60_exceptions.md R600). -/
def ErrCode.code : ErrCode → BitVec 8
  | .illegal => 1#8
  | .notCfg => 2#8
  | .size => 3#8
  | .addr => 4#8
  | .index => 5#8
  | .param => 6#8

/-- The 32 bits of `STATUS`: bit 0 is `HALT`, bits 31:1 read 0 (10_state.md R35). -/
def statusWord (s : State) : U32 := if s.halt then 1#32 else 0#32

/-- The 32 bits of `ERRCODE`: the code in bits 7:0, bits 31:8 read 0 (10_state.md R36). -/
def errcodeWord (s : State) : U32 := s.errcode.setWidth 32

end Sys2Proof.Machine
end

