-- ==== Sys2Proof/Machine/Ops.lean ====
section
/-! DEFINITION. The named operations over memory and registers: cell and block access (20_memory.md R110 to R113), the named
updates of the state, taking a fault and returning from it (60_exceptions.md R604, R605), reset, and the shape every command
shares: checks in order, then the whole effect (48_system.md R505, 60_exceptions.md R602, R603). -/

namespace Sys2Proof.Machine

/-! ### Memories -/

/-- The value written to cell `a`, if it has been written since hardware reset. -/
def Memory.read? : Memory → Nat → Option F
  | [], _ => none
  | c :: m, a => if c.1 = a then some c.2 else Memory.read? m a

/-- What cell `a` holds: the value written last, else the free value `free a` (20_memory.md R113). -/
def Memory.get (free : Nat → F) (m : Memory) (a : Nat) : F :=
  match Memory.read? m a with
  | some v => v
  | none => free a

/-- The cells of a block: `vs` from cell `a` on, ascending (20_memory.md R101). -/
def cellsFrom : Nat → List F → Memory
  | _, [] => []
  | a, v :: vs => (a, v) :: cellsFrom (a + 1) vs

/-- Write the block `vs` to cells `a` to `a + len - 1` (00_scope.md R11, `MemWrite`). The form stays canonical. -/
def Memory.writeBlock (m : Memory) (a : Nat) (vs : List F) : Memory :=
  match vs with
  | [] => m
  | v :: vs =>
    m.filter (fun c => decide (c.1 < a)) ++ cellsFrom a (v :: vs) ++
      m.filter (fun c => decide (a + (vs.length + 1) ≤ c.1))

/-- The `n` cells from `a` on (00_scope.md R11, `MemRead`). -/
def Memory.readBlock (free : Nat → F) (m : Memory) (a n : Nat) : List F :=
  (List.range n).map fun i => Memory.get free m (a + i)

/-- The canonical form: cell indices strictly rise. An unlisted cell reads as no written value, so no listed cell equals
what an unlisted one reads as. -/
abbrev Memory.wf (m : Memory) : Prop := m.Pairwise fun c d => c.1 < d.1

/-- Every listed cell lies below `n`. -/
abbrev Memory.below (n : Nat) (m : Memory) : Prop := ∀ c ∈ m, c.1 < n

/-- `n` values `+0.0` (00_scope.md R11). -/
def zeros (n : Nat) : List F := List.replicate n 0#64

/-- The free values of memory `id` since the last hardware reset (93_implementation_defined.md I1, log 2). -/
def State.free (s : State) (id : MemId) : Nat → F := Config.powerOn s.resets id

/-- `DM[a]` (00_scope.md R11). -/
def State.readDM (s : State) (a : Nat) : F := Memory.get (s.free .dm) s.dm a

/-! ### Named updates of the state -/

/-- Replace the integer argument registers. -/
def State.setR (s : State) (v : IntArgs) : State := { s with r := v }
/-- Replace the float argument registers. -/
def State.setF (s : State) (v : FloatArgs) : State := { s with f := v }
/-- Replace `DFT_N`. -/
def State.setDftN (s : State) (v : U32) : State := { s with dftN := v }
/-- Replace `FFT_N`. -/
def State.setFftN (s : State) (v : U32) : State := { s with fftN := v }
/-- Replace the WIN unit. -/
def State.setWin (s : State) (v : Window) : State := { s with win := v }
/-- Replace the DL unit. -/
def State.setDl (s : State) (v : DelayLine) : State := { s with dl := v }
/-- Replace the SP unit. -/
def State.setSp (s : State) (v : SinglePole) : State := { s with sp := v }
/-- Replace the BQ sections. -/
def State.setBq (s : State) (v : List Biquad) : State := { s with bq := v }
/-- Replace the SVF unit. -/
def State.setSvf (s : State) (v : Svf) : State := { s with svf := v }
/-- Replace the CB unit. -/
def State.setCb (s : State) (v : Comb) : State := { s with cb := v }
/-- Replace the CV unit. -/
def State.setCv (s : State) (v : DirectConv) : State := { s with cv := v }
/-- Replace the FC unit. -/
def State.setFc (s : State) (v : FastConv) : State := { s with fc := v }
/-- Replace the PEQ unit. -/
def State.setPeq (s : State) (v : Peq) : State := { s with peq := v }
/-- Replace data memory. -/
def State.setDm (s : State) (v : Memory) : State := { s with dm := v }
/-- Replace the pending transactions. -/
def State.setHost (s : State) (v : List HostEvent) : State := { s with host := v }
/-- Replace the values read. -/
def State.setReplies (s : State) (v : List (BitVec 64)) : State := { s with replies := v }
/-- Write `r7`, the register the kernel designers return a length in (10_state.md R31). -/
def State.setR7 (s : State) (v : U32) : State := s.setR { s.r with r7 := v }

/-- A section out of reset: `B0 = 1.0`, the rest `+0.0` (10_state.md R46). -/
def Biquad.flat : Biquad :=
  { b0 := 0x3FF0000000000000#64, b1 := 0#64, b2 := 0#64, a1 := 0#64, a2 := 0#64, x1 := 0#64, x2 := 0#64, y1 := 0#64,
    y2 := 0#64 }

/-- `MemRead(a, n)` of data memory, `a` an address register (00_scope.md R11). A command's reads are all of the state it
began in, which is the snapshot rule (20_memory.md R110). -/
def State.readBlock (s : State) (a : U32) (n : Nat) : List F := Memory.readBlock (s.free .dm) s.dm a.toNat n

/-- `MemWrite(a, len(vs), vs)` to data memory (00_scope.md R11); a later block overwrites an earlier one where they
overlap (20_memory.md R111). -/
def State.writeBlock (s : State) (a : U32) (vs : List F) : State := s.setDm (s.dm.writeBlock a.toNat vs)

/-- BQ section `k` (10_state.md R46); commands check `k < NBQ` first. -/
def State.section (s : State) (k : Nat) : Biquad := s.bq.getD k Biquad.flat

/-- BQ section `k` replaced, the others kept. -/
def State.setSection (s : State) (k : Nat) (b : Biquad) : State := s.setBq (s.bq.set k b)

/-! ### Reset -/

/-- Every register at its reset value (10_state.md R40, R70); data memory, the hidden memories and the host's own record
as given. `SYS.RESET` and hardware reset differ only in what they pass here (70_reset_and_hazards.md R702). -/
def State.resetRegisters (s : State) : State :=
  { params := s.params
    r := ⟨0#32, 0#32, 0#32, 0#32, 0#32, 0#32, 0#32, 0#32⟩
    f := ⟨0#64, 0#64, 0#64, 0#64, 0#64, 0#64, 0#64, 0#64⟩
    halt := false
    errcode := 0#8
    errcmd := 0#32
    dftN := 0#32
    fftN := 0#32
    win := { kind := 0#32, len := 0#32, coef := s.win.coef }
    dl := { fs := 0#64, maxms := 0#64, ms := 0#64, len := 0#32, wr := 0#32, rd := 0#32, frac := 0#64, buf := s.dl.buf }
    sp := { a0 := 0x3FF0000000000000#64, a1 := 0#64, b1 := 0#64, x1 := 0#64, y1 := 0#64 }
    bq := List.replicate s.params.nbq Biquad.flat
    svf := { f := 0#64, q := 0#64, x1 := 0#64, x2 := 0#64 }
    cb := { mode := 1#32, gain := 0#64, x1 := 0#64, y1 := 0#64 }
    cv := { frame := 0#32, irlen := 0#32, ir := s.cv.ir, ov := s.cv.ov }
    fc := { frame := 0#32, irlen := 0#32, n := 0#32, hr := s.fc.hr, hi := s.fc.hi, ov := s.fc.ov }
    peq := { fs := 0#64, nb := 0#32 }
    dm := s.dm
    resets := s.resets
    host := s.host
    replies := s.replies }

/-- `SYS.RESET`'s effect: every register at its reset value, DM and the hidden memories kept (48_system.md R508). -/
def State.softReset (s : State) : State := s.resetRegisters

/-- Hardware reset: every register at its reset value, DM and the hidden memories unspecified anew
(70_reset_and_hazards.md R700, R701). The host's own list of transactions goes on. -/
def State.hardReset (s : State) : State :=
  let t := s.resetRegisters
  { t with
    win := { t.win with coef := [] }
    dl := { t.dl with buf := [] }
    cv := { t.cv with ir := [], ov := [] }
    fc := { t.fc with hr := [], hi := [], ov := [] }
    dm := []
    resets := t.resets + 1 }

/-! ### Faults -/

/-- `fault_entry(c, w)` (60_exceptions.md R604): record the fault and halt; nothing else changes. -/
def faultEntry (c : ErrCode) (w : CmdWord) (s : State) : State :=
  { s with halt := true, errcode := c.code, errcmd := w }

/-- The return from a fault (60_exceptions.md R605): clear the record; nothing else changes. -/
def clearFault (s : State) : State := { s with halt := false, errcode := 0#8, errcmd := 0#32 }

/-- One check of a command: whether it passes, and the fault it raises when it does not. -/
abbrev Check := Bool × ErrCode

/-- The fault of the first check that fails (60_exceptions.md R602). -/
def firstFault : List Check → Option ErrCode
  | [] => none
  | c :: cs => if c.1 then firstFault cs else some c.2

/-- The shape of every command (48_system.md R505): the checks in the order its rule lists them; the first that fails
enters its fault and changes nothing else, and a command that passes them all has all of its effect (60_exceptions.md
R603). -/
def command (i : Instr) (checks : List Check) (s : State) (effect : State → State) : Host.Outcome State Fault Refusal :=
  match firstFault checks with
  | some c => .next (faultEntry c (encode i) s)
  | none => .next (effect s)

end Sys2Proof.Machine
end

