-- ==== Sys2Proof/Machine/Operands.lean ====
section
/-! DEFINITION. The operand forms of the commands (30_encoding.md R141): every operand is an argument register or the `idx` or
`mode` field, used as the unsigned integer it is, and each form has the check the rules make on it (60_exceptions.md R602);
and the sample-by-sample run of a block (20_memory.md R101). -/

namespace Sys2Proof.Machine

/-- The unit's size register is not 0 (10_state.md R33, 60_exceptions.md R611). -/
def configured (size : U32) : Check := (decide (size ≠ 0#32), .notCfg)

/-- A block of `n` cells whose base address is in the register `a` is in range: the sum, taken over the unbounded integers,
is at most `DMWORDS`; a block of length 0 is in range wherever it stands (20_memory.md R112). -/
def State.blockCheck (s : State) (a : U32) (n : Nat) : Check :=
  (decide (n = 0) || decide (a.toNat + n ≤ s.params.dmWords), .addr)

/-- The number of samples of a `*.PROC` command, in `r2`, is at most `BLKMAX` (60_exceptions.md R612). -/
def State.lengthCheck (s : State) : Check := (decide (s.r.r2.toNat ≤ s.params.blkMax), .size)

/-- A size between two bounds (60_exceptions.md R612). -/
def sizeCheck (lo hi n : Nat) : Check := (decide (lo ≤ n) && decide (n ≤ hi), .size)

/-- The section number in `idx` exists (43_iir_filters.md R310). -/
def State.sectionCheck (s : State) (k : Nat) : Check := (decide (k < s.params.nbq), .index)

/-- A float parameter is finite (60_exceptions.md R615). -/
def finiteCheck (x : F) : Check := (isfinite x, .param)

/-- A float parameter is positive: `not (x > 0.0)` raises (60_exceptions.md R615). -/
def positiveCheck (x : F) : Check := (flt fzero x, .param)

/-- A float parameter is not below zero: `x < 0.0` raises (60_exceptions.md R615). -/
def nonnegCheck (x : F) : Check := (!flt x fzero, .param)

/-- A float parameter is not a NaN (60_exceptions.md R615). -/
def numberCheck (x : F) : Check := (!isNaN x, .param)

/-- Element `i` of a sequence (00_scope.md R11); every rule stays inside the sequence. -/
def at0 (v : List F) (i : Nat) : F := v.getD i fzero

/-- The elements of a block fed one after another through a unit with state `σ`, the state carried forward: the end state
and the outputs (43_iir_filters.md R300, 42_delay_line.md R267). -/
def runBlock {σ α : Type} (sample : σ → F → σ × α) : σ → List F → σ × List α
  | st, [] => (st, [])
  | st, x :: xs =>
    let step := sample st x
    let rest := runBlock sample step.1 xs
    (rest.1, step.2 :: rest.2)

end Sys2Proof.Machine
end

