-- ==== Sys2Proof/Machine/Delay.lean ====
section
/-! DEFINITION. The delay line unit DL (42_delay_line.md). The comb unit works on the same delay line. -/

namespace Sys2Proof.Machine

/-- `(maxms * fs) / 1000.0`, the maximum delay in samples (42_delay_line.md R261). -/
def delaySamples (ms fs : F) : F := fdiv (fmul ms fs) (fofNat 1000)

/-- `dl_set_delay(ms)` (42_delay_line.md R263): the delay clamped, its fraction kept, the read cursor that many samples
behind the write cursor. `mod` is the non-negative remainder (00_scope.md R10). -/
def DelayLine.setDelay (d : DelayLine) (ms : F) : DelayLine :=
  let c := clampF ms fzero d.maxms
  let sd := delaySamples c d.fs
  { d with
    ms := c
    frac := fsub sd (fofInt (ffloor sd))
    rd := BitVec.ofNat 32 ((((d.wr.toNat : Int) + d.len.toNat - ffloor sd) % (d.len.toNat : Int)).toNat) }

/-- The buffer with its `len` slots zero (42_delay_line.md R261, R268). -/
def DelayLine.cleared (d : DelayLine) : DelayLine := { d with buf := d.buf.writeBlock 0 (zeros d.len.toNat) }

/-- The checks of `dl_init(fs, maxms, ms)` in its order (42_delay_line.md R261). -/
def dlInitChecks (p : Params) (fs maxms ms : F) : List Check :=
  [finiteCheck fs, finiteCheck maxms, positiveCheck fs, nonnegCheck maxms, numberCheck ms,
    finiteCheck (delaySamples maxms fs),
    (!flt (fofNat p.dlMax) (delaySamples maxms fs), .size)]

/-- `dl_init(fs, maxms, ms)` once its checks have passed (42_delay_line.md R261). -/
def DelayLine.init (d : DelayLine) (fs maxms ms : F) : DelayLine :=
  let d' : DelayLine :=
    { d with fs := fs, maxms := maxms, len := BitVec.ofNat 32 (nextpow2F (delaySamples maxms fs)), wr := 0#32 }
  d'.cleared.setDelay ms

/-- `DL.INIT` (42_delay_line.md R262). -/
def execDlInit (s : State) : Host.Outcome State Fault Refusal :=
  command .dlInit (dlInitChecks s.params s.f.f0 s.f.f1 s.f.f2) s fun s =>
    s.setDl (s.dl.init s.f.f0 s.f.f1 s.f.f2)

/-- `DL.SETDELAY` (42_delay_line.md R264). -/
def execDlSetdelay (s : State) : Host.Outcome State Fault Refusal :=
  command .dlSetdelay [configured s.dl.len, numberCheck s.f.f2] s fun s => s.setDl (s.dl.setDelay s.f.f2)

/-- The interpolation neighbour of read position `rd` in a buffer of `m` slots: `(rd + m + DL_NEIGH) mod m`
(42_delay_line.md R265, R266). -/
def neighbour (n : DlNeigh) (m rd : Nat) : Nat :=
  match n with
  | .next => (rd + m + 1) % m
  | .prev => (rd + m - 1) % m

/-- `dl_sample(x)` (42_delay_line.md R265): write, advance, read two slots, interpolate, advance. `free` gives the slots
nothing has written. -/
def DelayLine.sample (n : DlNeigh) (free : Nat → F) (d : DelayLine) (x : F) : DelayLine × F :=
  let m := d.len.toNat
  let buf := d.buf.writeBlock d.wr.toNat [x]
  let s0 := Memory.get free buf d.rd.toNat
  let s1 := Memory.get free buf (neighbour n m d.rd.toNat)
  ({ d with
      buf := buf
      wr := BitVec.ofNat 32 ((d.wr.toNat + 1) % m)
      rd := BitVec.ofNat 32 ((d.rd.toNat + 1) % m) },
    fadd s0 (fmul d.frac (fsub s1 s0)))

/-- One sample through the state's delay line. -/
def State.dlSample (s : State) : DelayLine → F → DelayLine × F := DelayLine.sample s.params.dlNeigh (s.free .dlBuf)

/-- `DL.PROC` (42_delay_line.md R267). -/
def execDlProc (s : State) : Host.Outcome State Fault Refusal :=
  let n := s.r.r2.toNat
  command .dlProc [configured s.dl.len, s.lengthCheck, s.blockCheck s.r.r0 n, s.blockCheck s.r.r1 n] s fun s =>
    let out := runBlock s.dlSample s.dl (s.readBlock s.r.r0 n)
    (s.setDl out.1).writeBlock s.r.r1 out.2

/-- `DL.CLEAR` (42_delay_line.md R268). -/
def execDlClear (s : State) : Host.Outcome State Fault Refusal :=
  command .dlClear [configured s.dl.len] s fun s => s.setDl s.dl.cleared

end Sys2Proof.Machine
end

