-- ==== Sys2Proof/Machine/Comb.lean ====
section
/-! DEFINITION. The comb filter unit CB on the engine's one delay line (44_comb.md). -/

namespace Sys2Proof.Machine

/-- `CB.INIT` (44_comb.md R361): the delay line constructed with delay `+0.0`, the comb inactive. -/
def execCbInit (s : State) : Host.Outcome State Fault Refusal :=
  command .cbInit (dlInitChecks s.params s.f.f0 s.f.f1 fzero) s fun s =>
    (s.setDl (s.dl.init s.f.f0 s.f.f1 fzero)).setCb { mode := 1#32, gain := fzero, x1 := fzero, y1 := fzero }

/-- The feedback mode's reduced delay `((((ms*fs)/1000.0) - 1.0) * 1000.0) / fs` (44_comb.md R363). -/
def feedbackDelay (ms fs : F) : F := fdiv (fmul (fsub (delaySamples ms fs) fone) (fofNat 1000)) fs

/-- The common frame of the `CB.DESIGN.*` commands (44_comb.md R362). -/
def cbDesign (i : Instr) (mode : U32) (effective : F) (s : State) : Host.Outcome State Fault Refusal :=
  command i [configured s.dl.len, numberCheck s.f.f2] s fun s =>
    (s.setCb { s.cb with mode := mode, gain := s.f.f3 }).setDl (s.dl.setDelay effective)

/-- `CB.DESIGN.FB` (44_comb.md R363). -/
def execCbDesignFb (s : State) : Host.Outcome State Fault Refusal :=
  cbDesign .cbDesignFb 0#32 (feedbackDelay s.f.f2 s.dl.fs) s

/-- `CB.DESIGN.FF` (44_comb.md R364). -/
def execCbDesignFf (s : State) : Host.Outcome State Fault Refusal := cbDesign .cbDesignFf 1#32 s.f.f2 s

/-- `CB.DESIGN.AP` (44_comb.md R365). -/
def execCbDesignAp (s : State) : Host.Outcome State Fault Refusal := cbDesign .cbDesignAp 2#32 s.f.f2 s

/-- The output of one sample and the delay line after it, by mode; the allpass leaves the delay line alone
(44_comb.md R366). -/
def combOutput (dlSample : DelayLine → F → DelayLine × F) (c : Comb) (d : DelayLine) (x : F) : DelayLine × F :=
  if c.mode = 0#32 then ((dlSample d c.y1).1, fadd x (fmul c.gain (dlSample d c.y1).2))
  else if c.mode = 1#32 then ((dlSample d x).1, fadd x (fmul c.gain (dlSample d x).2))
  else (d, fadd (fsub (fmul c.gain x) (fmul c.gain c.y1)) c.x1)

/-- One sample of the comb; the last input and output are kept in every mode (44_comb.md R366). -/
def combSample (dlSample : DelayLine → F → DelayLine × F) (st : Comb × DelayLine) (x : F) : (Comb × DelayLine) × F :=
  let out := combOutput dlSample st.1 st.2 x
  (({ st.1 with x1 := x, y1 := out.2 }, out.1), out.2)

/-- `CB.PROC` (44_comb.md R366). -/
def execCbProc (s : State) : Host.Outcome State Fault Refusal :=
  let n := s.r.r2.toNat
  command .cbProc [configured s.dl.len, s.lengthCheck, s.blockCheck s.r.r0 n, s.blockCheck s.r.r1 n] s fun s =>
    let out := runBlock (combSample s.dlSample) (s.cb, s.dl) (s.readBlock s.r.r0 n)
    ((s.setCb out.1.1).setDl out.1.2).writeBlock s.r.r1 out.2

/-- `CB.RESET` (44_comb.md R367). -/
def execCbReset (s : State) : Host.Outcome State Fault Refusal :=
  command .cbReset [configured s.dl.len] s fun s =>
    (s.setCb { s.cb with x1 := fzero, y1 := fzero }).setDl s.dl.cleared

end Sys2Proof.Machine
end

