-- ==== Sys2Proof/Machine/Trig.lean ====
section
/-! DEFINITION. The constant tables of the engine, computed: the DFT table (10_state.md R61) and the twiddle ROM
(10_state.md R60), each entry the F value nearest a cosine or sine of a rational part of a turn. The tables are pure
functions of their index, so the kernel can evaluate them and they are no state. Fixed-point numbers here are integers at a
scale `2^p`; the evaluation carries about 200 bits more than an entry keeps (log 5). -/

namespace Sys2Proof.Machine

/-- `Σ (±1)^k / ((2k+1) q^(2k+1))` at the scale at which `pw` is `1/q`, `q2` being `q²`: `sgn = -1` gives `arctan(1/q)`,
`sgn = 1` gives `artanh(1/q)`. -/
def oddSeries (sgn : Int) (q2 : Nat) : Nat → Nat → Nat → Int
  | 0, _, _ => 0
  | fuel + 1, k, pw => ((pw / (2 * k + 1) : Nat) : Int) + sgn * oddSeries sgn q2 fuel (k + 1) (pw / q2)

/-- π at scale `2^p`, by Machin's formula `π = 16·arctan(1/5) − 4·arctan(1/239)`. -/
def piFix (p : Nat) : Nat :=
  (16 * oddSeries (-1) 25 (p / 4 + 2) 0 (2 ^ p / 5) - 4 * oddSeries (-1) 57121 (p / 15 + 2) 0 (2 ^ p / 239)).toNat

/-- The sums `(c, s)` of the even and odd terms of the exponential series of `i·a` from term `k` (currently `t`) on, all at
scale `2^p`: for a full run, cosine and sine of `a`. -/
def cosSinSeries (p a : Nat) : Nat → Nat → Nat → Int × Int → Int × Int
  | 0, _, _, cs => cs
  | fuel + 1, k, t, cs =>
    cosSinSeries p a fuel (k + 1) (t * a / 2 ^ p / (k + 1))
      (match k % 4 with
        | 0 => (cs.1 + t, cs.2)
        | 1 => (cs.1, cs.2 + t)
        | 2 => (cs.1 - t, cs.2)
        | _ => (cs.1, cs.2 - t))

/-- Cosine and sine of the angle `a` at scale `2^p`, for `0 ≤ a ≤ π/2`. -/
def cosSinFix (p fuel a : Nat) : Int × Int := cosSinSeries p a fuel 0 (2 ^ p) (0, 0)

/-- The value `v` at scale `2^p` to the nearest F; zero is `+0.0`. -/
def roundFix (p : Nat) (v : Int) : F :=
  if v = 0 then fzero else roundF (decide (v < 0)) (v.natAbs * fUnit) (2 ^ p)

/-- The working scale of the tables. -/
def tableScale : Nat := 256

/-- Cosine and sine of `num / den` of an EIGHTH of a turn (at most `π/4`), at scale `tableScale`. -/
def cosSinOctant (num den : Nat) : Int × Int :=
  cosSinFix tableScale 64 (piFix tableScale * num / (4 * den))

/-- Cosine and sine of `2π·m/n`, by exact reduction to the first octant: zeros and ones of the table are exact. -/
def cosSinTurn (n m : Nat) : Int × Int :=
  let u := 8 * (m % n)
  let lo := cosSinOctant (u % n) n
  let hi := cosSinOctant (n - u % n) n
  match u / n with
  | 0 => (lo.1, lo.2)
  | 1 => (hi.2, hi.1)
  | 2 => (-lo.2, lo.1)
  | 3 => (-hi.1, hi.2)
  | 4 => (-lo.1, -lo.2)
  | 5 => (-hi.2, -hi.1)
  | 6 => (lo.2, -lo.1)
  | _ => (hi.1, -hi.2)

/-- `DFTC(N, m)`: the F value nearest `cos(2π·m/N)` (10_state.md R61). -/
def dftC (n m : Nat) : F := roundFix tableScale (cosSinTurn n m).1
/-- `DFTS(N, m)`: the F value nearest `sin(2π·m/N)` (10_state.md R61). -/
def dftS (n m : Nat) : F := roundFix tableScale (cosSinTurn n m).2

/-- `TWC[h]`: the F value nearest `cos(π/h)`, that is `cos(2π·1/(2h))` (10_state.md R60). Entry 0 is never read. -/
def twC (h : Nat) : F := dftC (2 * h) 1
/-- `TWS[h]`: the F value nearest `sin(π/h)` (10_state.md R60). -/
def twS (h : Nat) : F := dftS (2 * h) 1

end Sys2Proof.Machine
end

