-- ==== Sys2Proof/Machine/Transform.lean ====
section
/-! DEFINITION. The transform unit XF: the reference DFT and the real-input FFT (40_transform.md). The functions `fftFwd` and
`fftInv` are also those of FC and CU. -/

namespace Sys2Proof.Machine

/-! ### The reference DFT -/

/-- Bin `k` of the forward DFT, real part: terms added in ascending `i` from `+0.0` (40_transform.md R202). -/
def dftRe (n : Nat) (x : List F) (k : Nat) : F :=
  (List.range n).foldl (fun acc i => fadd acc (fmul (at0 x i) (dftC n (k * i % n)))) fzero

/-- Bin `k` of the forward DFT, imaginary part: accumulated by subtraction (40_transform.md R202). -/
def dftIm (n : Nat) (x : List F) (k : Nat) : F :=
  (List.range n).foldl (fun acc i => fsub acc (fmul (at0 x i) (dftS n (k * i % n)))) fzero

/-- Sample `i` of the inverse DFT of the bins already scaled by `1/N`, the imaginary ones negated (40_transform.md R203). -/
def dftSample (n : Nat) (rs is : List F) (i : Nat) : F :=
  (List.range n).foldl
    (fun acc k => fadd acc (fadd (fmul (at0 rs k) (dftC n (k * i % n))) (fmul (at0 is k) (dftS n (k * i % n))))) fzero

/-- The inverse DFT (40_transform.md R203, 90_conflicts.md C7). -/
def dftInv (n : Nat) (re im : List F) : List F :=
  let rs := re.map fun v => fdiv v (fofNat n)
  let is := im.map fun v => fneg (fdiv v (fofNat n))
  (List.range n).map (dftSample n rs is)

/-! ### The FFT -/

/-- The two working arrays of a transform (40_transform.md R211, 10_state.md R62). -/
structure Work where
  wr : List F
  wi : List F
deriving DecidableEq, Repr

/-- Both arrays of a working pair with position `i` replaced. -/
def Work.put (w : Work) (i : Nat) (re im : F) : Work := { wr := w.wr.set i re, wi := w.wi.set i im }

/-- One butterfly: the pair `(i, i+h)` with the twiddle `(ur, ui)` (40_transform.md R212). -/
def butterfly (h : Nat) (ur ui : F) (w : Work) (i : Nat) : Work :=
  let pr := at0 w.wr (i + h)
  let pi := at0 w.wi (i + h)
  let tr := fsub (fmul pr ur) (fmul pi ui)
  let ti := fadd (fmul pr ui) (fmul pi ur)
  let ar := at0 w.wr i
  let ai := at0 w.wi i
  (w.put (i + h) (fsub ar tr) (fsub ai ti)).put i (fadd ar tr) (fadd ai ti)

/-- The butterflies of index `j`: positions `j, j + 2h, j + 4h, ...` below `total` (40_transform.md R212). -/
def bflyColumn (h total j : Nat) (ur ui : F) (w : Work) : Work :=
  (List.range (total / (2 * h))).foldl (fun w k => butterfly h ur ui w (j + 2 * h * k)) w

/-- The running twiddle times the rotation step (40_transform.md R212). -/
def nextTwiddle (sr si : F) (u : F × F) : F × F :=
  (fsub (fmul u.1 sr) (fmul u.2 si), fadd (fmul u.1 si) (fmul u.2 sr))

/-- `bfly_pass(wr, wi, h, total)`: the twiddle starts at 1 and is advanced by the ROM's step after each index; the
recurrence, not a lookup, is the reference (40_transform.md R212). -/
def bflyPass (w : Work) (h total : Nat) : Work :=
  let sr := twC h
  let si := fneg (twS h)
  ((List.range h).foldl
    (fun acc j => (bflyColumn h total j acc.2.1 acc.2.2 acc.1, nextTwiddle sr si acc.2)) (w, (fone, fzero))).1

/-- Pack: even samples as real, odd as imaginary parts, in the lower half (40_transform.md R213). -/
def packReal (n : Nat) (x : List F) : Work :=
  { wr := (List.range (n / 2)).map (fun i => at0 x (2 * i)) ++ zeros (n - n / 2)
    wi := (List.range (n / 2)).map (fun i => at0 x (2 * i + 1)) ++ zeros (n - n / 2) }

/-- Positions `i` and `j` of both arrays exchanged. -/
def Work.swap (w : Work) (i j : Nat) : Work :=
  (w.put i (at0 w.wr j) (at0 w.wi j)).put j (at0 w.wr i) (at0 w.wi i)

/-- Bit reversal over the `h` packed points (40_transform.md R214). -/
def bitReverse (h : Nat) (w : Work) : Work :=
  (List.range h).foldl
    (fun w i => if i < bitrev i (Nat.log2 h) then w.swap i (bitrev i (Nat.log2 h)) else w) w

/-- The `log2(h)` butterfly passes of half-widths `1, 2, 4, ..., h/2` (40_transform.md R215). -/
def fftStages (h : Nat) (w : Work) : Work :=
  (List.range (Nat.log2 h)).foldl (fun w p => bflyPass w (2 ^ p) h) w

/-- The loop body of the unpack for index `i`; the four upper positions use the values from before, which the four lower
ones then overwrite (40_transform.md R216). -/
def unpackAt (h : Nat) (w : Work) (i : Nat) : Work :=
  let im := h - i
  let ri := at0 w.wr i
  let rm := at0 w.wr im
  let ii := at0 w.wi i
  let mi := at0 w.wi im
  let orr := fdiv (fadd ii mi) ftwo
  let oi := fneg (fdiv (fsub ri rm) ftwo)
  let er := fdiv (fadd ri rm) ftwo
  let ei := fdiv (fsub ii mi) ftwo
  (((w.put (i + h) orr oi).put (im + h) orr (fneg oi)).put i er ei).put im er (fneg ei)

/-- The closing lines of the unpack: bins 0 and `q` of the odd part move to the upper half, four imaginary parts become
`+0.0` (40_transform.md R216). -/
def unpackEnds (h q : Nat) (w : Work) : Work :=
  let wr := (w.wr.set (3 * q) (at0 w.wi q)).set h (at0 w.wi 0)
  { wr := wr, wi := (((w.wi.set (3 * q) fzero).set h fzero).set q fzero).set 0 fzero }

/-- Unpack (40_transform.md R216). -/
def unpack (h q : Nat) (w : Work) : Work :=
  unpackEnds h q ((List.range (q - 1)).foldl (fun w k => unpackAt h w (k + 1)) w)

/-- `fft_fwd(N, x)` (40_transform.md R211): pack, bit reversal, stages, unpack, final pass (R217). -/
def fftFwd (n : Nat) (x : List F) : Work :=
  bflyPass (unpack (n / 2) (n / 4) (fftStages (n / 2) (bitReverse (n / 2) (packReal n x)))) (n / 2) n

/-- Element `k` of the combined array of the inverse: bins above `N/2` are rebuilt by conjugate symmetry and the imaginary
part enters with the sign it then has (40_transform.md R219, 90_conflicts.md C1). -/
def combined (n : Nat) (re im : List F) (k : Nat) : F :=
  if k ≤ n / 2 then fadd (at0 re k) (at0 im k) else fadd (at0 re (n - k)) (fneg (at0 im (n - k)))

/-- `fft_inv(N, R, I)`: only bins `0 .. N/2` are used (40_transform.md R219). -/
def fftInv (n : Nat) (re im : List F) : List F :=
  let g := fftFwd n ((List.range n).map (combined n re im))
  (List.range n).map fun i => fdiv (fadd (at0 g.wr i) (at0 g.wi i)) (fofNat n)

/-! ### The commands -/

/-- `DFT.INIT` (40_transform.md R201). -/
def execDftInit (s : State) : Host.Outcome State Fault Refusal :=
  command .dftInit [sizeCheck 1 s.params.dftMax s.r.r2.toNat] s fun s => s.setDftN s.r.r2

/-- `DFT.FWD` (40_transform.md R202). -/
def execDftFwd (s : State) : Host.Outcome State Fault Refusal :=
  let n := s.dftN.toNat
  command .dftFwd [configured s.dftN, s.blockCheck s.r.r0 n, s.blockCheck s.r.r1 n, s.blockCheck s.r.r2 n] s fun s =>
    let x := s.readBlock s.r.r0 n
    (s.writeBlock s.r.r1 ((List.range n).map (dftRe n x))).writeBlock s.r.r2 ((List.range n).map (dftIm n x))

/-- `DFT.INV` (40_transform.md R203). -/
def execDftInv (s : State) : Host.Outcome State Fault Refusal :=
  let n := s.dftN.toNat
  command .dftInv [configured s.dftN, s.blockCheck s.r.r1 n, s.blockCheck s.r.r2 n, s.blockCheck s.r.r0 n] s fun s =>
    s.writeBlock s.r.r0 (dftInv n (s.readBlock s.r.r1 n) (s.readBlock s.r.r2 n))

/-- `FFT.INIT` (40_transform.md R210). -/
def execFftInit (s : State) : Host.Outcome State Fault Refusal :=
  command .fftInit [(ispow2 s.r.r2.toNat, .size), sizeCheck 4 s.params.nmax s.r.r2.toNat] s fun s => s.setFftN s.r.r2

/-- `FFT.FWD` (40_transform.md R220). -/
def execFftFwd (s : State) : Host.Outcome State Fault Refusal :=
  let n := s.fftN.toNat
  command .fftFwd [configured s.fftN, s.blockCheck s.r.r0 n, s.blockCheck s.r.r1 n, s.blockCheck s.r.r2 n] s fun s =>
    let g := fftFwd n (s.readBlock s.r.r0 n)
    (s.writeBlock s.r.r1 g.wr).writeBlock s.r.r2 g.wi

/-- `FFT.INV` (40_transform.md R221). -/
def execFftInv (s : State) : Host.Outcome State Fault Refusal :=
  let n := s.fftN.toNat
  command .fftInv [configured s.fftN, s.blockCheck s.r.r1 n, s.blockCheck s.r.r2 n, s.blockCheck s.r.r0 n] s fun s =>
    s.writeBlock s.r.r0 (fftInv n (s.readBlock s.r.r1 n) (s.readBlock s.r.r2 n))

end Sys2Proof.Machine
end

