-- ==== Sys2Proof/Machine/Convolution.lean ====
section
/-! DEFINITION. The convolution units CV (direct) and FC (FFT, overlap-add) (45_convolution.md). -/

namespace Sys2Proof.Machine

/-- `ola(full, OV, B, T)` (45_convolution.md R401): the output frame and the new tail. The old tail is added to the first
`T` values after the frame's own products; the values from `B` on are carried over, also where `T > B`. -/
def overlapAdd (full ov : List F) (b t : Nat) : List F × List F :=
  let sum := (List.range (b + t)).map fun n => if n < t then fadd (at0 full n) (at0 ov n) else at0 full n
  (sum.take b, sum.drop b)

/-! ### CV -/

/-- The checks of `CV.INIT` and the first of `FC.INIT`: frame and response length (45_convolution.md R402, R412). -/
def convSizeChecks (s : State) : List Check :=
  [sizeCheck 1 s.params.blkMax s.r.r2.toNat, sizeCheck 1 s.params.irMax s.r.r3.toNat]

/-- `CV.INIT` (45_convolution.md R402). -/
def execCvInit (s : State) : Host.Outcome State Fault Refusal :=
  let m := s.r.r3.toNat
  command .cvInit (convSizeChecks s ++ [s.blockCheck s.r.r0 m]) s fun s =>
    s.setCv
      { frame := s.r.r2
        irlen := s.r.r3
        ir := s.cv.ir.writeBlock 0 (s.readBlock s.r.r0 m)
        ov := s.cv.ov.writeBlock 0 (zeros (m - 1)) }

/-- Value `n` of the full convolution of a frame of `b` samples: its products added in ascending input index from `+0.0`
(45_convolution.md R403). -/
def convAt (x h : List F) (b m n : Nat) : F :=
  ((List.range b).filter fun i => decide (i ≤ n) && decide (n < i + m)).foldl
    (fun acc i => fadd acc (fmul (at0 x i) (at0 h (n - i)))) fzero

/-- The full convolution of a frame (45_convolution.md R403). -/
def convFull (x h : List F) (b m : Nat) : List F := (List.range (b + (m - 1))).map (convAt x h b m)

/-- The response `CV_IR[0..M-1]`. -/
def State.cvResponse (s : State) : List F := Memory.readBlock (s.free .cvIr) s.cv.ir 0 s.cv.irlen.toNat
/-- The tail `CV_OV[0..M-2]`. -/
def State.cvTail (s : State) : List F := Memory.readBlock (s.free .cvOv) s.cv.ov 0 (s.cv.irlen.toNat - 1)

/-- `CV.PROC` (45_convolution.md R403). -/
def execCvProc (s : State) : Host.Outcome State Fault Refusal :=
  let b := s.cv.frame.toNat
  let m := s.cv.irlen.toNat
  command .cvProc [configured s.cv.frame, s.blockCheck s.r.r0 b, s.blockCheck s.r.r1 b] s fun s =>
    let out := overlapAdd (convFull (s.readBlock s.r.r0 b) s.cvResponse b m) s.cvTail b (m - 1)
    (s.setCv { s.cv with ov := s.cv.ov.writeBlock 0 out.2 }).writeBlock s.r.r1 out.1

/-- `CV.RESET` (45_convolution.md R404). -/
def execCvReset (s : State) : Host.Outcome State Fault Refusal :=
  command .cvReset [configured s.cv.frame] s fun s =>
    s.setCv { s.cv with ov := s.cv.ov.writeBlock 0 (zeros (s.cv.irlen.toNat - 1)) }

/-! ### FC -/

/-- `fc_size(B, M) = max(4, nextpow2(B + M - 1))` (45_convolution.md R411). -/
def fcSize (b m : Nat) : Nat := max 4 (nextpow2 (b + m - 1))

/-- `FC.INIT` (45_convolution.md R412). -/
def execFcInit (s : State) : Host.Outcome State Fault Refusal :=
  let m := s.r.r3.toNat
  let n := fcSize s.r.r2.toNat m
  command .fcInit (convSizeChecks s ++ [(decide (n ≤ s.params.nmax), .size), s.blockCheck s.r.r0 m]) s fun s =>
    let g := fftFwd n (s.readBlock s.r.r0 m ++ zeros (n - m))
    s.setFc
      { frame := s.r.r2
        irlen := s.r.r3
        n := BitVec.ofNat 32 n
        hr := s.fc.hr.writeBlock 0 g.wr
        hi := s.fc.hi.writeBlock 0 g.wi
        ov := s.fc.ov.writeBlock 0 (zeros (m - 1)) }

/-- The product of two spectra at bin `k`, real part (45_convolution.md R413). -/
def specRe (x : Work) (hr hi : List F) (k : Nat) : F :=
  fsub (fmul (at0 x.wr k) (at0 hr k)) (fmul (at0 x.wi k) (at0 hi k))
/-- The product of two spectra at bin `k`, imaginary part (45_convolution.md R413). -/
def specIm (x : Work) (hr hi : List F) (k : Nat) : F :=
  fadd (fmul (at0 x.wr k) (at0 hi k)) (fmul (at0 x.wi k) (at0 hr k))

/-- One frame convolved through the transform: bins `0 .. N/2` of the product, inverse, the first `len` values
(45_convolution.md R413). -/
def fcFull (n len : Nat) (xp hr hi : List F) : List F :=
  let x := fftFwd n xp
  (fftInv n ((List.range (n / 2 + 1)).map (specRe x hr hi)) ((List.range (n / 2 + 1)).map (specIm x hr hi))).take len

/-- `FC_HR[0..N/2]` (45_convolution.md R413 reads these entries). -/
def State.fcRe (s : State) : List F := Memory.readBlock (s.free .fcHr) s.fc.hr 0 (s.fc.n.toNat / 2 + 1)
/-- `FC_HI[0..N/2]`. -/
def State.fcIm (s : State) : List F := Memory.readBlock (s.free .fcHi) s.fc.hi 0 (s.fc.n.toNat / 2 + 1)
/-- The tail `FC_OV[0..M-2]`. -/
def State.fcTail (s : State) : List F := Memory.readBlock (s.free .fcOv) s.fc.ov 0 (s.fc.irlen.toNat - 1)

/-- `FC.PROC` (45_convolution.md R413). -/
def execFcProc (s : State) : Host.Outcome State Fault Refusal :=
  let b := s.fc.frame.toNat
  let t := s.fc.irlen.toNat - 1
  let n := s.fc.n.toNat
  command .fcProc [configured s.fc.frame, s.blockCheck s.r.r0 b, s.blockCheck s.r.r1 b] s fun s =>
    let full := fcFull n (b + t) (s.readBlock s.r.r0 b ++ zeros (n - b)) s.fcRe s.fcIm
    let out := overlapAdd full s.fcTail b t
    (s.setFc { s.fc with ov := s.fc.ov.writeBlock 0 out.2 }).writeBlock s.r.r1 out.1

/-- `FC.RESET` (45_convolution.md R414). -/
def execFcReset (s : State) : Host.Outcome State Fault Refusal :=
  command .fcReset [configured s.fc.frame] s fun s =>
    s.setFc { s.fc with ov := s.fc.ov.writeBlock 0 (zeros (s.fc.irlen.toNat - 1)) }

end Sys2Proof.Machine
end

