-- ==== Sys2Proof/Machine/Num.lean ====
section
/-! DEFINITION. The configured functions `sin`, `cos`, `exp`, `pow10`, `log10`, `atan2` of 00_scope.md R14. Each is a FREE
VALUE of Config (`Config.sinDraw` and so on, no body) held to exactly what R14 says of it: (a) within `ULPT` units in the
last place of the real value for finite operands where the function is defined, (b) the exact cases, (c) a NaN operand (for
`sin` and `cos` an infinity too) gives a NaN. For (a) the real value is known exactly or enclosed between two rational numbers,
computed far closer together than the least unit in the last place divided by the denominator of `ULPT`, and cut at the exact
bounds that matter where the value comes closer to one than that (`sin x < x`, `arctan q < q`, `cos x < 1`, and so on); a draw
outside the bound is replaced by the nearest F. Outside R14's guarantees (93_implementation_defined.md I6) the draw stands as
it is. See log 4. -/

namespace Sys2Proof.Machine

/-- The working scale for the bound `ulpt`: computed values are counted in `2^-numScale`. The numbers at which a bound can lie
(an F value moved by `ulpt` units) are multiples of a unit over the denominator of `ulpt`, so the scale grows with it. -/
def numScale (ulpt : Rat) : Nat := 1500 + 2 * Nat.log2 ulpt.den

/-- A finite F at scale `2^p`, `p ≥ 1074`; exact. -/
def fixOf (p : Nat) (x : F) : Int := fval x * 2 ^ (p - 1074)

/-- The value of a finite F. -/
def ratOf (x : F) : Rat := mkRat (fval x) fUnit

/-- The magnitude of a finite F. -/
def ratAbs (x : F) : Rat := mkRat (fscaled x) fUnit

/-- What is known of a real value: the value, or two bounds strictly between which it lies. -/
inductive Enclosure where
  | exactly (q : Rat)
  | between (lo hi : Rat)
deriving DecidableEq, Repr

/-- The enclosure of a value `v` at scale `2^p` computed to within `2^40` of that. -/
def Enclosure.around (p : Nat) (v : Int) : Enclosure :=
  .between (mkRat (v - 2 ^ 40) (2 ^ p)) (mkRat (v + 2 ^ 40) (2 ^ p))

/-- The enclosed value is also below `b`. -/
def Enclosure.below (e : Enclosure) (b : Rat) : Enclosure :=
  match e with
  | .exactly q => .exactly q
  | .between lo hi => .between lo (if b < hi then b else hi)

/-- The enclosed value is also above `b`. -/
def Enclosure.above (e : Enclosure) (b : Rat) : Enclosure :=
  match e with
  | .exactly q => .exactly q
  | .between lo hi => .between (if lo < b then b else lo) hi

/-- The enclosure of the value with the other sign. -/
def Enclosure.negate (e : Enclosure) : Enclosure :=
  match e with
  | .exactly q => .exactly (-q)
  | .between lo hi => .between (-hi) (-lo)

/-- A magnitude in units of `2^-1074`, rounded down. -/
def unitsOf (q : Rat) : Nat := q.num.natAbs * fUnit / q.den

/-- One unit in the last place of the enclosed value: that of the binade of its magnitude, which for bounds begins strictly
above the smaller one; the subnormal unit below the normal range. -/
def Enclosure.ulp (e : Enclosure) : Rat :=
  match e with
  | .exactly q => mkRat (2 ^ (Nat.log2 (unitsOf q) - 52)) fUnit
  | .between lo hi => mkRat (2 ^ (Nat.log2 (min (unitsOf lo) (unitsOf hi)) - 52)) fUnit

/-- R14 (a): `v` is finite and within `ulpt` units in the last place of the enclosed value. -/
def Enclosure.admits (e : Enclosure) (ulpt : Rat) (v : F) : Bool :=
  isfinite v &&
    match e with
    | .exactly q => decide (q - ratOf v ≤ ulpt * e.ulp) && decide (ratOf v - q ≤ ulpt * e.ulp)
    | .between lo hi => decide (lo - ratOf v < ulpt * e.ulp) && decide (ratOf v - hi < ulpt * e.ulp)

/-- A rational number to the nearest F; zero is `+0.0`. -/
def roundRat (q : Rat) : F := if q.num = 0 then fzero else roundF (decide (q.num < 0)) (q.num.natAbs * fUnit) q.den

/-- The F value nearest the enclosed value. -/
def Enclosure.nearest (e : Enclosure) : F :=
  match e with
  | .exactly q => roundRat q
  | .between lo hi => roundRat ((lo + hi) / 2)

/-- The configured result: the draw where nothing bounds it or it keeps the bound, else the nearest F. -/
def settle (ulpt : Rat) (e : Option Enclosure) (draw : F) : F :=
  match e with
  | none => draw
  | some e => if e.admits ulpt draw then draw else e.nearest

/-- Cosine and sine of `|x|` at scale `2^p`: `|x|` less whole quarter turns, with π carried to scale `2^(p + 1100)`. -/
def cosSinAbs (p : Nat) (x : F) : Int × Int :=
  let big := fscaled x * 2 ^ (p + 26)
  let quarter := piFix (p + 1100) / 2
  let r := (big % quarter) / 2 ^ 1100
  let half := quarter / 2 ^ 1100
  let cs :=
    if 2 * r ≤ half then cosSinFix p (p / 5) r
    else ((cosSinFix p (p / 5) (half - r)).2, (cosSinFix p (p / 5) (half - r)).1)
  match big / quarter % 4 with
  | 0 => (cs.1, cs.2)
  | 1 => (-cs.2, cs.1)
  | 2 => (-cs.1, -cs.2)
  | _ => (cs.2, -cs.1)

/-- An enclosure of `sin(x)` for finite `x ≠ 0`; `sin|x| < |x|`. -/
def sinEnclosure (p : Nat) (x : F) : Enclosure :=
  let e := (Enclosure.around p (cosSinAbs p x).2).below (ratAbs x)
  if fneg? x then e.negate else e

/-- An enclosure of `cos(x)` for finite `x ≠ 0`; `cos x < 1`. -/
def cosEnclosure (p : Nat) (x : F) : Enclosure := (Enclosure.around p (cosSinAbs p x).1).below 1

/-- `ln 2` at scale `2^p`: `2·artanh(1/3)`. -/
def ln2Fix (p : Nat) : Nat := (2 * oddSeries 1 9 (p / 3 + 2) 0 (2 ^ p / 3)).toNat

/-- `ln 10` at scale `2^p`: `3·ln 2 + 2·artanh(1/9)`. -/
def ln10Fix (p : Nat) : Nat := 3 * ln2Fix p + (2 * oddSeries 1 81 (p / 6 + 2) 0 (2 ^ p / 9)).toNat

/-- `Σ a^k/k!` from term `k` (currently `t`) on, at scale `2^p`. -/
def expSeries (p a : Nat) : Nat → Nat → Nat → Nat
  | 0, _, _ => 0
  | fuel + 1, k, t => t + expSeries p a fuel (k + 1) (t * a / 2 ^ p / (k + 1))

/-- An enclosure of `e^t`, `t ≠ 0` at scale `2^p`, relative to the value: `e^t = 2^k · e^(t - k·ln 2)`. It is above 1 for
positive `t` and below it for negative `t`. Below `2^-(p/2 + 400)` the value lies between zero and the least bound that is not
zero, the least subnormal over the denominator of `ULPT`, and nothing more needs to be known of it. `none` where the result
overflows, that is rounds to an infinity: 93_implementation_defined.md I6 gives any value there. -/
def expEnclosure (p : Nat) (t : Int) : Option Enclosure :=
  let least := p / 2 + 400
  let k := t / (ln2Fix p : Int)
  if k < -(least : Int) then some (.between 0 (mkRat 1 (2 ^ (least - 2))))
  else if 1023 < k then none
  else
    let q := p - 1100
    let e := expSeries q ((t % (ln2Fix p : Int)).toNat / 2 ^ 1100) (q / 3) 0 (2 ^ q)
    let lo := mkRat (((e - 2 ^ 30) * 2 ^ (least + k).toNat : Nat) : Int) (2 ^ (q + least))
    let hi := mkRat (((e + 2 ^ 30) * 2 ^ (least + k).toNat : Nat) : Int) (2 ^ (q + least))
    if hi < ((2 ^ 1024 - 2 ^ 970 : Nat) : Rat) then
      some (if t < 0 then (Enclosure.between lo hi).below 1 else (Enclosure.between lo hi).above 1)
    else none

/-- `x · ln 10` at scale `2^p`. -/
def timesLn10 (p : Nat) (x : F) : Int := fixOf p x * ln10Fix (p + 20) / 2 ^ (p + 20)

/-- An enclosure of `10^x` for finite `x ≠ 0`; exact for the integers whose power of ten does not overflow, but for those far
below the least subnormal, which `expEnclosure` bounds. `none` where the result overflows. -/
def pow10Enclosure (p : Nat) (x : F) : Option Enclosure :=
  let n := fval x / (fUnit : Int)
  if fval x = n * (fUnit : Int) ∧ -((p / 2 - 350 : Nat) : Int) ≤ n ∧ n ≤ 308 then
    some (.exactly (if 0 ≤ n then ((10 ^ n.toNat : Nat) : Rat) else mkRat 1 (10 ^ (-n).toNat)))
  else expEnclosure p (timesLn10 p x)

/-- `Σ z^(2k+1)/(2k+1)` from term `k` (its power currently `pw`) on, at scale `2^p`. -/
def artanhSeries (p z : Nat) : Nat → Nat → Nat → Nat
  | 0, _, _ => 0
  | fuel + 1, k, pw => pw / (2 * k + 1) + artanhSeries p z fuel (k + 1) (pw * z / 2 ^ p * z / 2 ^ p)

/-- `log10(x)` at scale `2^p` for finite `x > 0`: `x = m·2^k` with `1 ≤ m < 2`, and
`ln m = 2·artanh((m-1)/(m+1))`. -/
def log10Fix (p : Nat) (x : F) : Int :=
  let l := Nat.log2 (fscaled x)
  let m := fscaled x * 2 ^ p / 2 ^ l
  let z := (m - 2 ^ p) * 2 ^ p / (m + 2 ^ p)
  let atanh : Nat := artanhSeries p z (p / 3) 0 z
  (((l : Int) - 1074) * ln2Fix p + 2 * (atanh : Int)) * 2 ^ p / ln10Fix p

/-- An enclosure of `log10(x)` for finite `x > 0`; of a power of ten the exact value. -/
def log10Enclosure (p : Nat) (x : F) : Enclosure :=
  let n := (log10Fix p x + 2 ^ (p - 1)) / 2 ^ p
  if 0 ≤ n ∧ fscaled x = 10 ^ n.toNat * fUnit then .exactly n
  else .around p (log10Fix p x)

/-- Euler's series `Σ t_k` from term `k` (currently `t`) on, `t_(k+1) = t_k · w · (2k+2)/(2k+3)`, at scale `2^p`. -/
def eulerSeries (p w : Nat) : Nat → Nat → Nat → Nat
  | 0, _, _ => 0
  | fuel + 1, k, t => t + eulerSeries p w fuel (k + 1) (t * w / 2 ^ p * (2 * k + 2) / (2 * k + 3))

/-- `arctan(a/b)` at scale `2^p` for `2·a ≤ b`: `ab/(a²+b²)` times Euler's series in `a²/(a²+b²)`, carried to scale
`2^(p + 100)`. -/
def atanSmall (p a b : Nat) : Nat :=
  let d := a * a + b * b
  a * b * eulerSeries (p + 100) (a * a * 2 ^ (p + 100) / d) (p / 2) 0 (2 ^ (p + 100)) / (d * 2 ^ 100)

/-- `arctan(a/b)` at scale `2^p` for `a ≤ b`: above a half, `arctan(1/2)` and the rest, exactly reduced. -/
def atanRatio (p a b : Nat) : Nat :=
  if b < 2 * a then atanSmall p 1 2 + atanSmall p (2 * a - b) (2 * b + a) else atanSmall p a b

/-- The angle between the ray of `(|x|, |y|)` and the `x` axis, at scale `2^p`, not both zero. -/
def atanAbs (p : Nat) (y x : F) : Nat :=
  if fscaled y ≤ fscaled x then atanRatio p (fscaled y) (fscaled x)
  else piFix p / 2 - atanRatio p (fscaled x) (fscaled y)

/-- An enclosure of `|atan2(y, x)|` for finite `y`, `x`, not both zero; on the positive `x` axis exactly 0. An acute angle is
below its tangent and above 0. -/
def atan2Enclosure (p : Nat) (y x : F) : Enclosure :=
  if isZero y && !fneg? x then .exactly 0
  else if fneg? x && !isZero x then .around p ((piFix p : Int) - atanAbs p y x)
  else if isZero x then .around p (atanAbs p y x)
  else ((Enclosure.around p (atanAbs p y x)).below (mkRat (fscaled y) (fscaled x))).above 0

/-- `sin` (00_scope.md R14). -/
def nsin (p : Params) (x : F) : F :=
  if !isfinite x then fnan .sin x x
  else if isZero x then x
  else settle p.ulpt (some (sinEnclosure (numScale p.ulpt) x)) (Config.sinDraw x)

/-- `cos` (00_scope.md R14). -/
def ncos (p : Params) (x : F) : F :=
  if !isfinite x then fnan .cos x x
  else if isZero x then fone
  else settle p.ulpt (some (cosEnclosure (numScale p.ulpt) x)) (Config.cosDraw x)

/-- `exp` (00_scope.md R14). -/
def nexp (p : Params) (x : F) : F :=
  if isNaN x then fnan .exp x x
  else if isZero x then fone
  else if isInf x then Config.expDraw x
  else settle p.ulpt (expEnclosure (numScale p.ulpt) (fixOf (numScale p.ulpt) x)) (Config.expDraw x)

/-- `pow10(x)`, ten to the power `x` (00_scope.md R14). -/
def npow10 (p : Params) (x : F) : F :=
  if isNaN x then fnan .pow10 x x
  else if isZero x then fone
  else if isInf x then Config.pow10Draw x
  else settle p.ulpt (pow10Enclosure (numScale p.ulpt) x) (Config.pow10Draw x)

/-- `log10` (00_scope.md R14); of zero, a negative value or `+∞` the draw (93_implementation_defined.md I6). No command
calls it. -/
def nlog10 (p : Params) (x : F) : F :=
  if isNaN x then fnan .log10 x x
  else if feq x fone then fzero
  else if isInf x || isZero x || fneg? x then Config.log10Draw x
  else settle p.ulpt (some (log10Enclosure (numScale p.ulpt) x)) (Config.log10Draw x)

/-- In the range `(-π, π]` (46_kernel_design.md R441): `PI` is the greatest F value not above π, and `-PI` lies above
`-π`. -/
def inTurn (v : F) : Bool := fle (fneg cPI) v && fle v cPI

/-- A configured angle: `settle`, and inside `(-π, π]`. -/
def settleAngle (ulpt : Rat) (e : Enclosure) (draw : F) : F :=
  if inTurn (settle ulpt (some e) draw) then settle ulpt (some e) draw else e.nearest

/-- `atan2(y, x)` (00_scope.md R14, 46_kernel_design.md R441): the bound (a) and the range `(-π, π]` for finite operands that
are not both zero; else (an infinity, or both zero) the draw (93_implementation_defined.md I6). On the negative `x` axis a
zero `y` has the value π, and `-0.0` may give the value next to `-π` as well (log 4). No command calls it. -/
def natan2 (p : Params) (y x : F) : F :=
  if isNaN y || isNaN x then fnan .atan2 y x
  else if isInf y || isInf x || (isZero y && isZero x) then Config.atan2Draw y x
  else
    let e := atan2Enclosure (numScale p.ulpt) y x
    let draw := Config.atan2Draw y x
    if isZero y then
      if fneg? y && fneg? x && e.negate.admits p.ulpt draw && inTurn draw then draw else settleAngle p.ulpt e draw
    else settleAngle p.ulpt (if fneg? y then e.negate else e) draw

/-- `modulus(re, im)` (46_kernel_design.md R441); no command of the engine calls it. -/
def modulus (re im : F) : F := fsqrt (fadd (fmul re re) (fmul im im))

/-- `phase(re, im)` (46_kernel_design.md R441): `atan2(im, re)`, in the range `(-π, π]` also where
93_implementation_defined.md I6 leaves `atan2` any value (log 4); no command calls it. -/
def phase (p : Params) (re im : F) : F :=
  let a := natan2 p im re
  if isNaN im || isNaN re || inTurn a then a else cPI

/-- `lin2db(x)` (46_kernel_design.md R441): `-100.0` for `x <= 1e-5`, else `20.0 * log10(x)`; no command calls it. -/
def lin2db (p : Params) (x : F) : F :=
  if fle x 0x3EE4F8B588E368F1#64 then fofInt (-100) else fmul (fofNat 20) (nlog10 p x)
/-- `db2lin(x) = pow10(x / 20.0)` (46_kernel_design.md R441). -/
def db2lin (p : Params) (x : F) : F := npow10 p (fdiv x (fofNat 20))

end Sys2Proof.Machine
end

