-- ==== Sys2Proof/Machine/Iir.lean ====
section
/-! DEFINITION. The recursive filters SP, BQ and SVF (43_iir_filters.md). No float parameter is checked (R300). -/

namespace Sys2Proof.Machine

/-! ### SP -/

/-- The pole `exp(-((TWO_PI * fc) / fs))` (43_iir_filters.md R301, R302). -/
def spPole (p : Params) (fs fc : F) : F := nexp p (fneg (fdiv (fmul cTWO_PI fc) fs))

/-- The low-pass coefficients (43_iir_filters.md R301). -/
def SinglePole.lowPass (sp : SinglePole) (b1 : F) : SinglePole := { sp with b1 := b1, a0 := fsub fone b1, a1 := fzero }

/-- The high-pass coefficients; `a1` negates the `a0` just stored (43_iir_filters.md R302). -/
def SinglePole.highPass (sp : SinglePole) (b1 : F) : SinglePole :=
  { sp with b1 := b1, a0 := fdiv (fadd fone b1) ftwo, a1 := fneg (fdiv (fadd fone b1) ftwo) }

/-- `SP.DESIGN.LP` (43_iir_filters.md R301). -/
def execSpDesignLp (s : State) : Host.Outcome State Fault Refusal :=
  command .spDesignLp [] s fun s => s.setSp (s.sp.lowPass (spPole s.params s.f.f0 s.f.f1))

/-- `SP.DESIGN.HP` (43_iir_filters.md R302). -/
def execSpDesignHp (s : State) : Host.Outcome State Fault Refusal :=
  command .spDesignHp [] s fun s => s.setSp (s.sp.highPass (spPole s.params s.f.f0 s.f.f1))

/-- One sample: `y = (a0*x + a1*x1) + b1*y1` (43_iir_filters.md R303). -/
def SinglePole.sample (sp : SinglePole) (x : F) : SinglePole × F :=
  let y := fadd (fadd (fmul sp.a0 x) (fmul sp.a1 sp.x1)) (fmul sp.b1 sp.y1)
  ({ sp with x1 := x, y1 := y }, y)

/-- `SP.PROC` (43_iir_filters.md R303). -/
def execSpProc (s : State) : Host.Outcome State Fault Refusal :=
  let n := s.r.r2.toNat
  command .spProc [s.lengthCheck, s.blockCheck s.r.r0 n, s.blockCheck s.r.r1 n] s fun s =>
    let out := runBlock SinglePole.sample s.sp (s.readBlock s.r.r0 n)
    (s.setSp out.1).writeBlock s.r.r1 out.2

/-- `SP.RESET` (43_iir_filters.md R304). -/
def execSpReset (s : State) : Host.Outcome State Fault Refusal :=
  command .spReset [] s fun s => s.setSp { s.sp with x1 := fzero, y1 := fzero }

/-! ### BQ -/

/-- The six raw coefficients of a section (43_iir_filters.md R312, R314). -/
structure BqRaw where
  a0 : F
  a1 : F
  a2 : F
  b0 : F
  b1 : F
  b2 : F
deriving DecidableEq, Repr

/-- `bq_store`: five divisions by `a0`; the state registers are kept (43_iir_filters.md R313). -/
def Biquad.store (b : Biquad) (c : BqRaw) : Biquad :=
  { b with b0 := fdiv c.b0 c.a0, b1 := fdiv c.b1 c.a0, b2 := fdiv c.b2 c.a0, a1 := fdiv c.a1 c.a0, a2 := fdiv c.a2 c.a0 }

/-- The common intermediates of the design modes (43_iir_filters.md R311). -/
structure BqPre where
  cw : F
  sw : F
  al : F
  /-- `A = 10^(gain/40)`. -/
  amp : F
deriving DecidableEq, Repr

/-- `bq_pre(fs, fc, Q, gain)` (43_iir_filters.md R311). -/
def bqPre (p : Params) (fs fc q gain : F) : BqPre :=
  let w0 := fdiv (fmul cTWO_PI fc) fs
  let sw := nsin p w0
  { cw := ncos p w0, sw := sw, al := fdiv sw (fmul ftwo q), amp := npow10 p (fdiv gain (fofNat 40)) }

/-- `-2.0 * cw`. -/
def minusTwoCw (v : BqPre) : F := fmul 0xC000000000000000#64 v.cw

/-- The denominator of the first five modes with a numerator (43_iir_filters.md R314). -/
def bqPlain (v : BqPre) (b0 b1 b2 : F) : BqRaw :=
  { a0 := fadd fone v.al, a1 := minusTwoCw v, a2 := fsub fone v.al, b0 := b0, b1 := b1, b2 := b2 }

/-- Low pass (43_iir_filters.md R315). -/
def bqLowPass (v : BqPre) : BqRaw :=
  bqPlain v (fdiv (fsub fone v.cw) ftwo) (fsub fone v.cw) (fdiv (fsub fone v.cw) ftwo)

/-- High pass (43_iir_filters.md R316). -/
def bqHighPass (v : BqPre) : BqRaw :=
  bqPlain v (fdiv (fadd fone v.cw) ftwo) (fneg (fadd fone v.cw)) (fdiv (fadd fone v.cw) ftwo)

/-- Band pass, in the configured form (43_iir_filters.md R317). -/
def bqBandPass (variant : BpVariant) (v : BqPre) : BqRaw :=
  match variant with
  | .peak0dB => bqPlain v v.al fzero (fneg v.al)
  | .skirt => bqPlain v (fdiv v.sw ftwo) fzero (fneg (fdiv v.sw ftwo))

/-- All pass (43_iir_filters.md R318). -/
def bqAllPass (v : BqPre) : BqRaw := bqPlain v (fsub fone v.al) (minusTwoCw v) (fadd fone v.al)

/-- Notch (43_iir_filters.md R319). -/
def bqNotch (v : BqPre) : BqRaw := bqPlain v fone (minusTwoCw v) fone

/-- Peak (43_iir_filters.md R320). -/
def bqPeak (v : BqPre) : BqRaw :=
  { a0 := fadd fone (fdiv v.al v.amp), a1 := minusTwoCw v, a2 := fsub fone (fdiv v.al v.amp)
    b0 := fadd fone (fmul v.al v.amp), b1 := minusTwoCw v, b2 := fsub fone (fmul v.al v.amp) }

/-- `(2.0 * sqrt(A)) * al` (43_iir_filters.md R321, R322). -/
def shelfRoot (v : BqPre) : F := fmul (fmul ftwo (fsqrt v.amp)) v.al
/-- `A + 1.0`. -/
def ampPlus (v : BqPre) : F := fadd v.amp fone
/-- `A - 1.0`. -/
def ampMinus (v : BqPre) : F := fsub v.amp fone
/-- `(A + 1.0) - (A - 1.0) * cw`. -/
def shelfDiff (v : BqPre) : F := fsub (ampPlus v) (fmul (ampMinus v) v.cw)
/-- `(A + 1.0) + (A - 1.0) * cw`. -/
def shelfSum (v : BqPre) : F := fadd (ampPlus v) (fmul (ampMinus v) v.cw)

/-- Low shelf (43_iir_filters.md R321). -/
def bqLowShelf (v : BqPre) : BqRaw :=
  { a0 := fadd (shelfSum v) (shelfRoot v)
    a1 := fmul 0xC000000000000000#64 (fadd (ampMinus v) (fmul (ampPlus v) v.cw))
    a2 := fsub (shelfSum v) (shelfRoot v)
    b0 := fmul v.amp (fadd (shelfDiff v) (shelfRoot v))
    b1 := fmul (fmul ftwo v.amp) (fsub (ampMinus v) (fmul (ampPlus v) v.cw))
    b2 := fmul v.amp (fsub (shelfDiff v) (shelfRoot v)) }

/-- High shelf (43_iir_filters.md R322). -/
def bqHighShelf (v : BqPre) : BqRaw :=
  { a0 := fadd (shelfDiff v) (shelfRoot v)
    a1 := fmul ftwo (fsub (ampMinus v) (fmul (ampPlus v) v.cw))
    a2 := fsub (shelfDiff v) (shelfRoot v)
    b0 := fmul v.amp (fadd (shelfSum v) (shelfRoot v))
    b1 := fmul (fmul 0xC000000000000000#64 v.amp) (fadd (ampMinus v) (fmul (ampPlus v) v.cw))
    b2 := fmul v.amp (fsub (shelfSum v) (shelfRoot v)) }

/-- The effect of storing raw coefficients in section `k`. -/
def State.storeSection (s : State) (k : Nat) (c : BqRaw) : State := s.setSection k ((s.section k).store c)

/-- The common frame of the `BQ.DESIGN.*` commands (43_iir_filters.md R314). -/
def bqDesign (i : Instr) (mode : BqPre → BqRaw) (k : Nat) (s : State) : Host.Outcome State Fault Refusal :=
  command i [s.sectionCheck k] s fun s => s.storeSection k (mode (bqPre s.params s.f.f0 s.f.f1 s.f.f2 s.f.f3))

/-- `BQ.DESIGN.LP` (43_iir_filters.md R315). -/
def execBqDesignLp (k : Nat) (s : State) : Host.Outcome State Fault Refusal := bqDesign (.bqDesignLp k) bqLowPass k s

/-- `BQ.DESIGN.HP` (43_iir_filters.md R316). -/
def execBqDesignHp (k : Nat) (s : State) : Host.Outcome State Fault Refusal := bqDesign (.bqDesignHp k) bqHighPass k s

/-- `BQ.DESIGN.BP` (43_iir_filters.md R317). -/
def execBqDesignBp (k : Nat) (s : State) : Host.Outcome State Fault Refusal :=
  bqDesign (.bqDesignBp k) (bqBandPass s.params.bpVariant) k s

/-- `BQ.DESIGN.AP` (43_iir_filters.md R318). -/
def execBqDesignAp (k : Nat) (s : State) : Host.Outcome State Fault Refusal := bqDesign (.bqDesignAp k) bqAllPass k s

/-- `BQ.DESIGN.NOTCH` (43_iir_filters.md R319). -/
def execBqDesignNotch (k : Nat) (s : State) : Host.Outcome State Fault Refusal := bqDesign (.bqDesignNotch k) bqNotch k s

/-- `BQ.DESIGN.PEAK` (43_iir_filters.md R320). -/
def execBqDesignPeak (k : Nat) (s : State) : Host.Outcome State Fault Refusal := bqDesign (.bqDesignPeak k) bqPeak k s

/-- `BQ.DESIGN.LS` (43_iir_filters.md R321). -/
def execBqDesignLs (k : Nat) (s : State) : Host.Outcome State Fault Refusal := bqDesign (.bqDesignLs k) bqLowShelf k s

/-- `BQ.DESIGN.HS` (43_iir_filters.md R322). -/
def execBqDesignHs (k : Nat) (s : State) : Host.Outcome State Fault Refusal := bqDesign (.bqDesignHs k) bqHighShelf k s

/-- `BQ.CUSTOM`: `f0..f5` are `a0, a1, a2, b0, b1, b2` (43_iir_filters.md R312). -/
def execBqCustom (k : Nat) (s : State) : Host.Outcome State Fault Refusal :=
  command (.bqCustom k) [s.sectionCheck k] s fun s =>
    s.storeSection k { a0 := s.f.f0, a1 := s.f.f1, a2 := s.f.f2, b0 := s.f.f3, b1 := s.f.f4, b2 := s.f.f5 }

/-- `bq_sample(s, x)`, direct form I (43_iir_filters.md R325). -/
def Biquad.sample (b : Biquad) (x : F) : Biquad × F :=
  let y := fsub (fsub (fadd (fadd (fmul b.b0 x) (fmul b.b1 b.x1)) (fmul b.b2 b.x2)) (fmul b.a1 b.y1)) (fmul b.a2 b.y2)
  ({ b with x2 := b.x1, x1 := x, y2 := b.y1, y1 := y }, y)

/-- A section with its four state registers `+0.0` (43_iir_filters.md R324). -/
def Biquad.quiet (b : Biquad) : Biquad := { b with x1 := fzero, x2 := fzero, y1 := fzero, y2 := fzero }

/-- `BQ.PROC` (43_iir_filters.md R323). -/
def execBqProc (k : Nat) (s : State) : Host.Outcome State Fault Refusal :=
  let n := s.r.r2.toNat
  command (.bqProc k) [s.sectionCheck k, s.lengthCheck, s.blockCheck s.r.r0 n, s.blockCheck s.r.r1 n] s fun s =>
    let out := runBlock Biquad.sample (s.section k) (s.readBlock s.r.r0 n)
    (s.setSection k out.1).writeBlock s.r.r1 out.2

/-- `BQ.RESET` (43_iir_filters.md R324). -/
def execBqReset (k : Nat) (s : State) : Host.Outcome State Fault Refusal :=
  command (.bqReset k) [s.sectionCheck k] s fun s => s.setSection k (s.section k).quiet

/-! ### SVF -/

/-- `SVF.DESIGN` (43_iir_filters.md R330). -/
def execSvfDesign (s : State) : Host.Outcome State Fault Refusal :=
  command .svfDesign [] s fun s =>
    s.setSvf { s.svf with f := fmul ftwo (nsin s.params (fdiv (fmul cPI s.f.f1) s.f.f0)), q := fdiv fone s.f.f2 }

/-- The four outputs of one sample (43_iir_filters.md R331). -/
structure SvfOut where
  hp : F
  bp : F
  lp : F
  br : F
deriving DecidableEq, Repr

/-- One sample; all four outputs come from the state before the update (43_iir_filters.md R331). -/
def Svf.sample (v : Svf) (x : F) : Svf × SvfOut :=
  let hp := fsub (fsub x (fmul v.q v.x1)) v.x2
  let bp := fadd (fmul hp v.f) v.x1
  let lp := fadd (fmul v.x1 v.f) v.x2
  ({ v with x1 := bp, x2 := lp }, { hp := hp, bp := bp, lp := lp, br := fadd hp lp })

/-- The check of an output block that its mask bit enables; a disabled one is not checked (43_iir_filters.md R331). -/
def State.maskedCheck (s : State) (on : Bool) (a : U32) (n : Nat) : Check := (!on || (s.blockCheck a n).1, .addr)

/-- The write of an output block that its mask bit enables (43_iir_filters.md R331). -/
def State.maskedWrite (s : State) (on : Bool) (a : U32) (vs : List F) : State := if on then s.writeBlock a vs else s

/-- `SVF.PROC`: mask bit 0 high-pass, 1 band-pass, 2 low-pass, 3 band-reject (43_iir_filters.md R331). -/
def execSvfProc (mask : Nat) (s : State) : Host.Outcome State Fault Refusal :=
  let n := s.r.r2.toNat
  command (.svfProc mask)
    [s.lengthCheck, s.blockCheck s.r.r0 n, s.maskedCheck (mask.testBit 0) s.r.r1 n, s.maskedCheck (mask.testBit 1) s.r.r3 n,
      s.maskedCheck (mask.testBit 2) s.r.r4 n, s.maskedCheck (mask.testBit 3) s.r.r5 n] s fun s =>
    let out := runBlock Svf.sample s.svf (s.readBlock s.r.r0 n)
    ((((s.setSvf out.1).maskedWrite (mask.testBit 0) s.r.r1 (out.2.map SvfOut.hp)).maskedWrite (mask.testBit 1) s.r.r3
      (out.2.map SvfOut.bp)).maskedWrite (mask.testBit 2) s.r.r4 (out.2.map SvfOut.lp)).maskedWrite (mask.testBit 3) s.r.r5
      (out.2.map SvfOut.br)

/-- `SVF.RESET` (43_iir_filters.md R332). -/
def execSvfReset (s : State) : Host.Outcome State Fault Refusal :=
  command .svfReset [] s fun s => s.setSvf { s.svf with x1 := fzero, x2 := fzero }

end Sys2Proof.Machine
end

