-- ==== Sys2Proof/Machine/Equaliser.lean ====
section
/-! DEFINITION. The parametric equaliser unit PEQ: a cascade of the biquad sections (47_parametric_eq.md). -/

namespace Sys2Proof.Machine

/-- The first `n` sections changed, the others kept. -/
def mapFirst (g : Biquad → Biquad) : Nat → List Biquad → List Biquad
  | 0, bs => bs
  | _ + 1, [] => []
  | n + 1, b :: bs => g b :: mapFirst g n bs

/-- The requested band count, raised to 2 (47_parametric_eq.md R481). -/
def bandCount (r2 : U32) : U32 := if r2.toNat < 2 then 2#32 else r2

/-- `PEQ.INIT` (47_parametric_eq.md R481). -/
def execPeqInit (s : State) : Host.Outcome State Fault Refusal :=
  let nb := bandCount s.r.r2
  command .peqInit [(decide (nb.toNat ≤ s.params.nbq), .size)] s fun s =>
    (s.setBq (mapFirst (fun _ => Biquad.flat) nb.toNat s.bq)).setPeq { fs := s.f.f0, nb := nb }

/-- The design of band `b` of `nb`: low shelf, high shelf, or peak between them (47_parametric_eq.md R482). -/
def bandDesign (b nb : Nat) : BqPre → BqRaw :=
  if b = 0 then bqLowShelf else if b = nb - 1 then bqHighShelf else bqPeak

/-- `PEQ.SETBAND` (47_parametric_eq.md R482). -/
def execPeqSetband (band : Nat) (s : State) : Host.Outcome State Fault Refusal :=
  command (.peqSetband band) [configured s.peq.nb, (decide (band < s.peq.nb.toNat), .index)] s fun s =>
    s.storeSection band (bandDesign band s.peq.nb.toNat (bqPre s.params s.peq.fs s.f.f1 s.f.f2 s.f.f3))

/-- One sample through the first `n` sections in turn, section 0 first (47_parametric_eq.md R483). -/
def cascade : Nat → List Biquad → F → List Biquad × F
  | 0, bs, v => (bs, v)
  | _ + 1, [], v => ([], v)
  | n + 1, b :: bs, v =>
    let here := b.sample v
    let rest := cascade n bs here.2
    (here.1 :: rest.1, rest.2)

/-- `PEQ.PROC` (47_parametric_eq.md R483). -/
def execPeqProc (s : State) : Host.Outcome State Fault Refusal :=
  let n := s.r.r2.toNat
  command .peqProc [configured s.peq.nb, s.lengthCheck, s.blockCheck s.r.r0 n, s.blockCheck s.r.r1 n] s fun s =>
    let out := runBlock (cascade s.peq.nb.toNat) s.bq (s.readBlock s.r.r0 n)
    (s.setBq out.1).writeBlock s.r.r1 out.2

/-- `PEQ.RESET` (47_parametric_eq.md R484). -/
def execPeqReset (s : State) : Host.Outcome State Fault Refusal :=
  command .peqReset [configured s.peq.nb] s fun s => s.setBq (mapFirst Biquad.quiet s.peq.nb.toNat s.bq)

end Sys2Proof.Machine
end

