-- ==== Sys2Proof/Machine/Window.lean ====
section
/-! DEFINITION. The analysis window unit WIN (41_window.md). -/

namespace Sys2Proof.Machine

/-- `cos((TWO_PI * float(i)) / float(L-1))` (41_window.md R241). -/
def winCos (p : Params) (l i : Nat) : F := ncos p (fdiv (fmul cTWO_PI (fofNat i)) (fofNat (l - 1)))

/-- `w_rect` (41_window.md R241). -/
def wRect (_ : Params) (_ _ : Nat) : F := fone

/-- `w_hann`: `0.5 - 0.5*cos(..)` (41_window.md R241). -/
def wHann (p : Params) (l i : Nat) : F :=
  fsub 0x3FE0000000000000#64 (fmul 0x3FE0000000000000#64 (winCos p l i))

/-- `w_hamm`: `0.54 - 0.46*cos(..)` (41_window.md R241). -/
def wHamm (p : Params) (l i : Nat) : F :=
  fsub 0x3FE147AE147AE148#64 (fmul 0x3FDD70A3D70A3D71#64 (winCos p l i))

/-- `w_black`: `(0.42659 - 0.49656*cos(2..)) + 0.076849*cos(4..)` (41_window.md R241). -/
def wBlack (p : Params) (l i : Nat) : F :=
  fadd (fsub 0x3FDB4D4024B33DB0#64 (fmul 0x3FDFC7A398201CD6#64 (winCos p l i)))
    (fmul 0x3FB3AC6045BAF534#64 (ncos p (fdiv (fmul cFOUR_PI (fofNat i)) (fofNat (l - 1)))))

/-- `win_set(T, wfun)` (41_window.md R242): the window of kind `kind` and length `l` selected; coefficients beyond `l` keep
their stale values. -/
def Window.select (w : Window) (kind : U32) (wfun : Nat → Nat → F) (l : U32) : Window :=
  { kind := kind, len := l, coef := w.coef.writeBlock 0 ((List.range l.toNat).map (wfun l.toNat)) }

/-- The checks of a `WIN.SET.*` command: the length is at least `lo` and at most `WINMAX` (41_window.md R242). `lo` is 1
for the rectangular window and 2 for the cosine windows. -/
def winSet (i : Instr) (lo : Nat) (kind : U32) (wfun : Params → Nat → Nat → F) (s : State) :
    Host.Outcome State Fault Refusal :=
  command i [sizeCheck lo s.params.winMax s.r.r2.toNat] s fun s =>
    s.setWin (s.win.select kind (wfun s.params) s.r.r2)

/-- `WIN.SET.RECT` (41_window.md R243). -/
def execWinSetRect (s : State) : Host.Outcome State Fault Refusal := winSet .winSetRect 1 0#32 wRect s

/-- `WIN.SET.HANN` (41_window.md R244). -/
def execWinSetHann (s : State) : Host.Outcome State Fault Refusal := winSet .winSetHann 2 1#32 wHann s

/-- `WIN.SET.HAMM` (41_window.md R245). -/
def execWinSetHamm (s : State) : Host.Outcome State Fault Refusal := winSet .winSetHamm 2 2#32 wHamm s

/-- `WIN.SET.BLACK` (41_window.md R246). -/
def execWinSetBlack (s : State) : Host.Outcome State Fault Refusal := winSet .winSetBlack 2 3#32 wBlack s

/-- `WIN_COEF[i]` (10_state.md R43). -/
def State.winCoef (s : State) (i : Nat) : F := Memory.get (s.free .winCoef) s.win.coef i

/-- `WIN.PROC` (41_window.md R247). -/
def execWinProc (s : State) : Host.Outcome State Fault Refusal :=
  let l := s.win.len.toNat
  command .winProc [configured s.win.len, s.blockCheck s.r.r0 l, s.blockCheck s.r.r1 l] s fun s =>
    let x := s.readBlock s.r.r0 l
    s.writeBlock s.r.r1 ((List.range l).map fun i => fmul (at0 x i) (s.winCoef i))

end Sys2Proof.Machine
end

