-- ==== Sys2Proof/Machine/Kernel.lean ====
section
/-! DEFINITION. The kernel design units WS and CU (46_kernel_design.md). They keep no state: a kernel is written to DM and its
length to `r7`. -/

namespace Sys2Proof.Machine

/-! ### WS -/

/-- `(4.0 * fs) / bw` (46_kernel_design.md R442). -/
def wsSpan (fs bw : F) : F := fdiv (fmul (fofNat 4) fs) bw

/-- The kernel length `ceil(x)` forced odd, for a finite positive `x` (46_kernel_design.md R442). -/
def wsLength (fs bw : F) : Nat :=
  let l := (fceil (wsSpan fs bw)).toNat
  if l % 2 = 0 then l + 1 else l

/-- The checks of `ws_len(fs, bw)` in its order (46_kernel_design.md R442). -/
def wsLengthChecks (p : Params) (fs bw : F) : List Check :=
  [finiteCheck fs, finiteCheck bw, positiveCheck fs, positiveCheck bw, finiteCheck (wsSpan fs bw),
    (!flt (fofNat p.irMax) (wsSpan fs bw), .size), sizeCheck 3 p.irMax (wsLength fs bw)]

/-- A tap before windowing: the centre tap is `w0`, the others `sin(w0*d)/d` (46_kernel_design.md R443, 90_conflicts.md
C3). -/
def sincTap (p : Params) (w0 : F) (c i : Nat) : F :=
  if i = c then w0
  else
    let d := fofInt ((i : Int) - c)
    fdiv (nsin p (fmul w0 d)) d

/-- `ws_lp(fs, fc, bw)` for length `l` (46_kernel_design.md R443). -/
def wsLowPass (p : Params) (fs fc : F) (l : Nat) : List F :=
  let w0 := fdiv (fmul cTWO_PI fc) fs
  let k := (List.range l).map fun i => fmul (sincTap p w0 ((l - 1) / 2) i) (wBlack p l i)
  let sum := k.foldl fadd fzero
  k.map fun v => fdiv v sum

/-- `ws_invert(k)`: negate, add 1.0 at the centre (46_kernel_design.md R444). -/
def wsInvert (k : List F) : List F :=
  let c := (k.length - 1) / 2
  let o := k.map fneg
  o.set c (fadd (at0 o c) fone)

/-- `ws_hp` (46_kernel_design.md R445). -/
def wsHighPass (p : Params) (fs fc : F) (l : Nat) : List F := wsInvert (wsLowPass p fs fc l)

/-- `ws_br`: a low-pass below and a high-pass above the band (46_kernel_design.md R445). -/
def wsBandReject (p : Params) (fs flo fhi : F) (l : Nat) : List F :=
  List.zipWith fadd (wsLowPass p fs flo l) (wsHighPass p fs fhi l)

/-- `ws_bp` (46_kernel_design.md R445). -/
def wsBandPass (p : Params) (fs flo fhi : F) (l : Nat) : List F := wsInvert (wsBandReject p fs flo fhi l)

/-- The common frame of the `WS.DESIGN.*` commands; `kernel` is the mode's function of the length
(46_kernel_design.md R446). -/
def wsDesign (i : Instr) (kernel : Nat → List F) (s : State) : Host.Outcome State Fault Refusal :=
  let l := wsLength s.f.f0 s.f.f2
  command i (wsLengthChecks s.params s.f.f0 s.f.f2 ++ [s.blockCheck s.r.r1 l]) s fun s =>
    (s.writeBlock s.r.r1 (kernel l)).setR7 (BitVec.ofNat 32 l)

/-- `WS.DESIGN.LP` (46_kernel_design.md R447). -/
def execWsDesignLp (s : State) : Host.Outcome State Fault Refusal :=
  wsDesign .wsDesignLp (wsLowPass s.params s.f.f0 s.f.f1) s

/-- `WS.DESIGN.HP` (46_kernel_design.md R448). -/
def execWsDesignHp (s : State) : Host.Outcome State Fault Refusal :=
  wsDesign .wsDesignHp (wsHighPass s.params s.f.f0 s.f.f1) s

/-- `WS.DESIGN.BR` (46_kernel_design.md R449). -/
def execWsDesignBr (s : State) : Host.Outcome State Fault Refusal :=
  wsDesign .wsDesignBr (wsBandReject s.params s.f.f0 s.f.f1 s.f.f3) s

/-- `WS.DESIGN.BP` (46_kernel_design.md R450). -/
def execWsDesignBp (s : State) : Host.Outcome State Fault Refusal :=
  wsDesign .wsDesignBp (wsBandPass s.params s.f.f0 s.f.f1 s.f.f3) s

/-! ### CU -/

/-- `cu_design(mag, isdb)` for a response of `r` values (46_kernel_design.md R451). -/
def cuDesignKernel (p : Params) (isdb : Bool) (mag : List F) (r : Nat) : List F :=
  let n := 2 * (r - 1)
  let re := if isdb then mag.map (db2lin p) else mag
  let raw := fftInv n re (zeros r)
  (List.range n).map fun i => fmul (at0 raw ((i + n / 2) % n)) (wBlack p n i)

/-- The common frame of the `CU.DESIGN.*` commands (46_kernel_design.md R452). -/
def cuDesign (i : Instr) (isdb : Bool) (s : State) : Host.Outcome State Fault Refusal :=
  let r := s.r.r2.toNat
  let n := 2 * (r - 1)
  command i
    [(decide (3 ≤ r), .size), (ispow2 n && decide (n ≤ s.params.nmax), .size), s.blockCheck s.r.r0 r, s.blockCheck s.r.r1 n] s
    fun s =>
      (s.writeBlock s.r.r1 (cuDesignKernel s.params isdb (s.readBlock s.r.r0 r) r)).setR7 (BitVec.ofNat 32 n)

/-- `CU.DESIGN.LIN` (46_kernel_design.md R453). -/
def execCuDesignLin (s : State) : Host.Outcome State Fault Refusal := cuDesign .cuDesignLin false s

/-- `CU.DESIGN.DB` (46_kernel_design.md R454). -/
def execCuDesignDb (s : State) : Host.Outcome State Fault Refusal := cuDesign .cuDesignDb true s

end Sys2Proof.Machine
end

