-- ==== Sys2Proof/Machine/System.lean ====
section
/-! DEFINITION. The SYS commands (48_system.md R506 to R508). -/

namespace Sys2Proof.Machine

/-- `SYS.NOP` (48_system.md R506). -/
def execSysNop (s : State) : Host.Outcome State Fault Refusal := command .sysNop [] s fun s => s

/-- `SYS.CLRERR`: the return from a fault (48_system.md R507, 60_exceptions.md R605). -/
def execSysClrerr (s : State) : Host.Outcome State Fault Refusal := command .sysClrerr [] s clearFault

/-- `SYS.RESET` (48_system.md R508). -/
def execSysReset (s : State) : Host.Outcome State Fault Refusal := command .sysReset [] s State.softReset

end Sys2Proof.Machine
end

