-- ==== Sys2Proof/Machine/Dispatch.lean ====
section
/-! DEFINITION. The meaning of each command: one arm per constructor of Instr (30_encoding.md R145). -/

namespace Sys2Proof.Machine

/-- Execute the rule of the row a legal word selects (48_system.md R504). -/
def exec (i : Instr) (s : State) : Host.Outcome State Fault Refusal :=
  match i with
  | .sysNop => Sys2Proof.Machine.execSysNop s
  | .sysClrerr => Sys2Proof.Machine.execSysClrerr s
  | .sysReset => Sys2Proof.Machine.execSysReset s
  | .dftInit => Sys2Proof.Machine.execDftInit s
  | .dftFwd => Sys2Proof.Machine.execDftFwd s
  | .dftInv => Sys2Proof.Machine.execDftInv s
  | .fftInit => Sys2Proof.Machine.execFftInit s
  | .fftFwd => Sys2Proof.Machine.execFftFwd s
  | .fftInv => Sys2Proof.Machine.execFftInv s
  | .winSetRect => Sys2Proof.Machine.execWinSetRect s
  | .winSetHann => Sys2Proof.Machine.execWinSetHann s
  | .winSetHamm => Sys2Proof.Machine.execWinSetHamm s
  | .winSetBlack => Sys2Proof.Machine.execWinSetBlack s
  | .winProc => Sys2Proof.Machine.execWinProc s
  | .dlInit => Sys2Proof.Machine.execDlInit s
  | .dlSetdelay => Sys2Proof.Machine.execDlSetdelay s
  | .dlProc => Sys2Proof.Machine.execDlProc s
  | .dlClear => Sys2Proof.Machine.execDlClear s
  | .spDesignLp => Sys2Proof.Machine.execSpDesignLp s
  | .spDesignHp => Sys2Proof.Machine.execSpDesignHp s
  | .spProc => Sys2Proof.Machine.execSpProc s
  | .spReset => Sys2Proof.Machine.execSpReset s
  | .bqDesignLp sect => Sys2Proof.Machine.execBqDesignLp sect s
  | .bqDesignHp sect => Sys2Proof.Machine.execBqDesignHp sect s
  | .bqDesignBp sect => Sys2Proof.Machine.execBqDesignBp sect s
  | .bqDesignAp sect => Sys2Proof.Machine.execBqDesignAp sect s
  | .bqDesignNotch sect => Sys2Proof.Machine.execBqDesignNotch sect s
  | .bqDesignPeak sect => Sys2Proof.Machine.execBqDesignPeak sect s
  | .bqDesignLs sect => Sys2Proof.Machine.execBqDesignLs sect s
  | .bqDesignHs sect => Sys2Proof.Machine.execBqDesignHs sect s
  | .bqCustom sect => Sys2Proof.Machine.execBqCustom sect s
  | .bqProc sect => Sys2Proof.Machine.execBqProc sect s
  | .bqReset sect => Sys2Proof.Machine.execBqReset sect s
  | .svfDesign => Sys2Proof.Machine.execSvfDesign s
  | .svfProc mask => Sys2Proof.Machine.execSvfProc mask s
  | .svfReset => Sys2Proof.Machine.execSvfReset s
  | .cbInit => Sys2Proof.Machine.execCbInit s
  | .cbDesignFb => Sys2Proof.Machine.execCbDesignFb s
  | .cbDesignFf => Sys2Proof.Machine.execCbDesignFf s
  | .cbDesignAp => Sys2Proof.Machine.execCbDesignAp s
  | .cbProc => Sys2Proof.Machine.execCbProc s
  | .cbReset => Sys2Proof.Machine.execCbReset s
  | .cvInit => Sys2Proof.Machine.execCvInit s
  | .cvProc => Sys2Proof.Machine.execCvProc s
  | .cvReset => Sys2Proof.Machine.execCvReset s
  | .fcInit => Sys2Proof.Machine.execFcInit s
  | .fcProc => Sys2Proof.Machine.execFcProc s
  | .fcReset => Sys2Proof.Machine.execFcReset s
  | .wsDesignLp => Sys2Proof.Machine.execWsDesignLp s
  | .wsDesignHp => Sys2Proof.Machine.execWsDesignHp s
  | .wsDesignBr => Sys2Proof.Machine.execWsDesignBr s
  | .wsDesignBp => Sys2Proof.Machine.execWsDesignBp s
  | .cuDesignLin => Sys2Proof.Machine.execCuDesignLin s
  | .cuDesignDb => Sys2Proof.Machine.execCuDesignDb s
  | .peqInit => Sys2Proof.Machine.execPeqInit s
  | .peqSetband band => Sys2Proof.Machine.execPeqSetband band s
  | .peqProc => Sys2Proof.Machine.execPeqProc s
  | .peqReset => Sys2Proof.Machine.execPeqReset s

end Sys2Proof.Machine
end

