-- ==== Sys2Proof/Machine/Port.lean ====
section
/-! DEFINITION. The register window (10_state.md R40, R41, 20_memory.md R102): which register a slot names, what a host read of
it returns and what a host write does; and the byte lanes of a slot on a byte-addressed bus (20_memory.md R106, R108). -/

namespace Sys2Proof.Machine

/-- The registers of the window, by name (10_state.md R40). `bq s j` is register `j` of section `s` (R46). -/
inductive Reg where
  | r (i : Nat)
  | f (i : Nat)
  | cmd | status | errcode | errcmd | id
  | cap (i : Nat)
  | dftN | fftN | winType | winLen
  | dlFs | dlMaxms | dlMs | dlLen | dlWr | dlRd | dlFrac
  | spA0 | spA1 | spB1 | spX1 | spY1
  | svF | svQ | svX1 | svX2
  | cbMode | cbGain | cbX1 | cbY1
  | cvFrame | cvIrlen
  | fcFrame | fcIrlen | fcN
  | peqFs | peqNb
  | bq (s j : Nat)
deriving DecidableEq, Repr

/-- The register at a slot below `0x100`; `none` for a reserved slot (10_state.md R40). -/
def lowSlot (slot : Nat) : Option Reg :=
  match slot with
  | 0x010 => some .cmd
  | 0x011 => some .status
  | 0x012 => some .errcode
  | 0x013 => some .errcmd
  | 0x014 => some .id
  | 0x020 => some .dftN
  | 0x021 => some .fftN
  | 0x024 => some .winType
  | 0x025 => some .winLen
  | 0x028 => some .dlFs
  | 0x029 => some .dlMaxms
  | 0x02A => some .dlMs
  | 0x02B => some .dlLen
  | 0x02C => some .dlWr
  | 0x02D => some .dlRd
  | 0x02E => some .dlFrac
  | 0x030 => some .spA0
  | 0x031 => some .spA1
  | 0x032 => some .spB1
  | 0x033 => some .spX1
  | 0x034 => some .spY1
  | 0x038 => some .svF
  | 0x039 => some .svQ
  | 0x03A => some .svX1
  | 0x03B => some .svX2
  | 0x040 => some .cbMode
  | 0x041 => some .cbGain
  | 0x042 => some .cbX1
  | 0x043 => some .cbY1
  | 0x048 => some .cvFrame
  | 0x049 => some .cvIrlen
  | 0x04C => some .fcFrame
  | 0x04D => some .fcIrlen
  | 0x04E => some .fcN
  | 0x050 => some .peqFs
  | 0x051 => some .peqNb
  | _ => none

/-- The register a slot names; `none` for a reserved slot and for one beyond `0x3FF` (10_state.md R40, R41). -/
def slotReg (p : Params) (slot : Nat) : Option Reg :=
  if slot < 0x008 then some (.r slot)
  else if slot < 0x010 then some (.f (slot - 0x008))
  else if 0x018 ≤ slot ∧ slot < 0x020 then some (.cap (slot - 0x018))
  else if slot < 0x100 then lowSlot slot
  else if slot < 0x100 + 16 * p.nbq ∧ (slot - 0x100) % 16 ≤ 8 then some (.bq ((slot - 0x100) / 16) ((slot - 0x100) % 16))
  else none

/-- A 32-bit register zero-extended to the slot (10_state.md R41). -/
def zext (v : U32) : BitVec 64 := v.setWidth 64

/-- `r<i>`. -/
def IntArgs.get (a : IntArgs) (i : Nat) : U32 :=
  match i with
  | 0 => a.r0
  | 1 => a.r1
  | 2 => a.r2
  | 3 => a.r3
  | 4 => a.r4
  | 5 => a.r5
  | 6 => a.r6
  | _ => a.r7

/-- `r<i>` replaced. -/
def IntArgs.put (a : IntArgs) (i : Nat) (v : U32) : IntArgs :=
  match i with
  | 0 => { a with r0 := v }
  | 1 => { a with r1 := v }
  | 2 => { a with r2 := v }
  | 3 => { a with r3 := v }
  | 4 => { a with r4 := v }
  | 5 => { a with r5 := v }
  | 6 => { a with r6 := v }
  | _ => { a with r7 := v }

/-- `f<i>`. -/
def FloatArgs.get (a : FloatArgs) (i : Nat) : F :=
  match i with
  | 0 => a.f0
  | 1 => a.f1
  | 2 => a.f2
  | 3 => a.f3
  | 4 => a.f4
  | 5 => a.f5
  | 6 => a.f6
  | _ => a.f7

/-- `f<i>` replaced. -/
def FloatArgs.put (a : FloatArgs) (i : Nat) (v : F) : FloatArgs :=
  match i with
  | 0 => { a with f0 := v }
  | 1 => { a with f1 := v }
  | 2 => { a with f2 := v }
  | 3 => { a with f3 := v }
  | 4 => { a with f4 := v }
  | 5 => { a with f5 := v }
  | 6 => { a with f6 := v }
  | _ => { a with f7 := v }

/-- Register `j` of a section (10_state.md R46). -/
def Biquad.get (b : Biquad) (j : Nat) : F :=
  match j with
  | 0 => b.b0
  | 1 => b.b1
  | 2 => b.b2
  | 3 => b.a1
  | 4 => b.a2
  | 5 => b.x1
  | 6 => b.x2
  | 7 => b.y1
  | _ => b.y2

/-- Register `j` of a section replaced (10_state.md R46). -/
def Biquad.put (b : Biquad) (j : Nat) (v : F) : Biquad :=
  match j with
  | 0 => { b with b0 := v }
  | 1 => { b with b1 := v }
  | 2 => { b with b2 := v }
  | 3 => { b with a1 := v }
  | 4 => { b with a2 := v }
  | 5 => { b with x1 := v }
  | 6 => { b with x2 := v }
  | 7 => { b with y1 := v }
  | _ => { b with y2 := v }

/-- The parameter that `CAP_*` register `i` reads, in the slot order of 10_state.md R39. -/
def capValue (p : Params) (i : Nat) : Nat :=
  match i with
  | 0 => p.dmWords
  | 1 => p.nmax
  | 2 => p.dftMax
  | 3 => p.winMax
  | 4 => p.dlMax
  | 5 => p.blkMax
  | 6 => p.irMax
  | _ => p.nbq

/-- The constant of the `ID` register, the letters "YODL" (10_state.md R38). -/
def idWord : U32 := 0x594F444C#32

/-- What a host read of a register returns (48_system.md R501); `CMD` is write-only and reads 0. -/
def State.readReg (s : State) : Reg → BitVec 64
  | .r i => zext (s.r.get i)
  | .f i => s.f.get i
  | .cmd => 0#64
  | .status => zext (statusWord s)
  | .errcode => zext (errcodeWord s)
  | .errcmd => zext s.errcmd
  | .id => zext idWord
  | .cap i => BitVec.ofNat 64 (capValue s.params i)
  | .dftN => zext s.dftN
  | .fftN => zext s.fftN
  | .winType => zext s.win.kind
  | .winLen => zext s.win.len
  | .dlFs => s.dl.fs
  | .dlMaxms => s.dl.maxms
  | .dlMs => s.dl.ms
  | .dlLen => zext s.dl.len
  | .dlWr => zext s.dl.wr
  | .dlRd => zext s.dl.rd
  | .dlFrac => s.dl.frac
  | .spA0 => s.sp.a0
  | .spA1 => s.sp.a1
  | .spB1 => s.sp.b1
  | .spX1 => s.sp.x1
  | .spY1 => s.sp.y1
  | .svF => s.svf.f
  | .svQ => s.svf.q
  | .svX1 => s.svf.x1
  | .svX2 => s.svf.x2
  | .cbMode => zext s.cb.mode
  | .cbGain => s.cb.gain
  | .cbX1 => s.cb.x1
  | .cbY1 => s.cb.y1
  | .cvFrame => zext s.cv.frame
  | .cvIrlen => zext s.cv.irlen
  | .fcFrame => zext s.fc.frame
  | .fcIrlen => zext s.fc.irlen
  | .fcN => zext s.fc.n
  | .peqFs => s.peq.fs
  | .peqNb => zext s.peq.nb
  | .bq k j => (s.section k).get j

/-- What a host write to a register does (48_system.md R500): a `u32` register takes bits 31:0, an F register all 64; a
read-only register keeps its value. A write to `CMD` is a command and is dispatched before this (`hostWriteReg`). -/
def State.writeReg (s : State) (reg : Reg) (v : BitVec 64) : State :=
  match reg with
  | .r i => s.setR (s.r.put i (v.setWidth 32))
  | .f i => s.setF (s.f.put i v)
  | .spA0 => s.setSp { s.sp with a0 := v }
  | .spA1 => s.setSp { s.sp with a1 := v }
  | .spB1 => s.setSp { s.sp with b1 := v }
  | .spX1 => s.setSp { s.sp with x1 := v }
  | .spY1 => s.setSp { s.sp with y1 := v }
  | .svF => s.setSvf { s.svf with f := v }
  | .svQ => s.setSvf { s.svf with q := v }
  | .svX1 => s.setSvf { s.svf with x1 := v }
  | .svX2 => s.setSvf { s.svf with x2 := v }
  | .cbGain => s.setCb { s.cb with gain := v }
  | .cbX1 => s.setCb { s.cb with x1 := v }
  | .cbY1 => s.setCb { s.cb with y1 := v }
  | .bq k j => s.setSection k ((s.section k).put j v)
  | .cmd => s
  | .status => s
  | .errcode => s
  | .errcmd => s
  | .id => s
  | .cap _ => s
  | .dftN => s
  | .fftN => s
  | .winType => s
  | .winLen => s
  | .dlFs => s
  | .dlMaxms => s
  | .dlMs => s
  | .dlLen => s
  | .dlWr => s
  | .dlRd => s
  | .dlFrac => s
  | .cbMode => s
  | .cvFrame => s
  | .cvIrlen => s
  | .fcFrame => s
  | .fcIrlen => s
  | .fcN => s
  | .peqFs => s
  | .peqNb => s

/-- `HostReadReg(slot)` (48_system.md R501): reserved slots and slots beyond `0x3FF` read 0. -/
def State.readSlot (s : State) (slot : Nat) : BitVec 64 :=
  match slotReg s.params slot with
  | some reg => s.readReg reg
  | none => 0#64

/-- A host write to a slot other than `CMD` (48_system.md R500): reserved slots and slots beyond `0x3FF` ignore it. -/
def State.writeSlot (s : State) (slot : Nat) (v : BitVec 64) : State :=
  match slotReg s.params slot with
  | some reg => s.writeReg reg v
  | none => s

/-- `HostReadDM(a)`: 0 beyond `DMWORDS` (48_system.md R503). -/
def State.hostReadDM (s : State) (a : Nat) : BitVec 64 := if a < s.params.dmWords then s.readDM a else 0#64

/-- `HostWriteDM(a, v)`: ignored beyond `DMWORDS` (48_system.md R502). -/
def State.hostWriteDM (s : State) (a : Nat) (v : BitVec 64) : State :=
  if a < s.params.dmWords then s.setDm (s.dm.writeBlock a [v]) else s

/-- The value a read transaction returns, added to the record of what the host has read (log 6). -/
def State.reply (s : State) (v : BitVec 64) : State := s.setReplies (v :: s.replies)

/-- The byte at lane `k` (0 the lowest address) of a slot or cell that holds `v`, on a byte-addressed host bus
(20_memory.md R108). No transaction of the port is narrower than a slot (R105), so no step uses it. -/
def busByte (order : ByteOrder) (v : BitVec 64) (k : Nat) : BitVec 8 :=
  match order with
  | .little => BitVec.ofNat 8 (v.toNat / 2 ^ (8 * k))
  | .big => BitVec.ofNat 8 (v.toNat / 2 ^ (8 * (7 - k)))

/-- The bus address of slot or cell `i` of a window at `base` on a byte-addressed bus (20_memory.md R106). -/
def busAddress (base i : Nat) : Nat := base + 8 * i

end Sys2Proof.Machine
end

