-- ==== Sys2Proof/Machine/Command.lean ====
section
/-! DEFINITION. Command dispatch and the host transactions (48_system.md R500 to R504, 20_memory.md R104). -/

namespace Sys2Proof.Machine

/-- `HostCommand(w)` (48_system.md R504): while halted only the two exact words execute and every other word is dropped
without decoding (60_exceptions.md R625); else an illegal word enters `E_ILLEGAL` and a legal one executes its row. -/
def hostCommand (w : CmdWord) (s : State) : Host.Outcome State Fault Refusal :=
  if s.halt then
    if w = 0x01000000#32 then exec .sysClrerr s
    else if w = 0x02000000#32 then exec .sysReset s
    else .next s
  else
    match decode w with
    | .error _ => .next (faultEntry .illegal w s)
    | .ok i => exec i s

/-- `HostWriteReg(slot, v)` (48_system.md R500): a write to `CMD` issues the command word `v[31:0]`. -/
def hostWriteReg (slot : Nat) (v : BitVec 64) (s : State) : Host.Outcome State Fault Refusal :=
  if slot = 0x010 then hostCommand (v.setWidth 32) s else .next (s.writeSlot slot v)

/-- One host transaction, or the assertion of hardware reset between two of them (20_memory.md R104,
70_reset_and_hazards.md R700). A read adds the value it returns to the host's record. -/
def perform (e : HostEvent) (s : State) : Host.Outcome State Fault Refusal :=
  match e with
  | .writeReg slot v => hostWriteReg slot v s
  | .readReg slot => .next (s.reply (s.readSlot slot))
  | .writeDM a v => .next (s.hostWriteDM a v)
  | .readDM a => .next (s.reply (s.hostReadDM a))
  | .command w => hostWriteReg 0x010 (zext w) s
  | .hardwareReset => .next s.hardReset

/-- The next transaction the host performs, and the state in which it does; with none pending the engine is idle and
nothing changes (00_scope.md R6, 60_exceptions.md R622). -/
def stepHost (s : State) : Host.Outcome State Fault Refusal :=
  match s.host with
  | [] => .next s
  | e :: rest => perform e (s.setHost rest)

/-- The host's next transaction is the `CMD` write of the word `w` (log 6). -/
def State.withCommand (s : State) (w : CmdWord) : State := s.setHost (.command w :: s.host)

end Sys2Proof.Machine
end

