-- ==== Sys2Proof/Machine/Step.lean ====
section
/-! DEFINITION. One step of the machine is one host transaction (00_scope.md R7). -/

namespace Sys2Proof.Machine

/-- One step: the oldest pending host transaction, complete with all its effects (00_scope.md R7, 20_memory.md R114). -/
def step (s : State) : Host.Outcome State Fault Refusal := stepHost s

/-- The state `s` with the instruction of `nbits` bits `w` as the host's very next transaction. The engine fetches no
instructions (10_state.md R52): a command word reaches it in a `CMD` write (log 6). -/
def State.withFetchWord (s : State) (nbits w : Nat) : State := s.withCommand (BitVec.ofNat 32 (w % 2 ^ nbits))

end Sys2Proof.Machine
end

