-- ==== Sys2Proof/Safety.lean ====
section
/-! DEFINITION. What counts as a safe run, in the terms the claims use: the fault a command must raise (60_exceptions.md R602,
R611 to R615), the invariant of the machine (10_state.md R42 to R51), what a register reads after reset (R40, R701), and the
ways to say what a block write and a delay buffer leave in memory. -/

namespace Sys2Proof.Machine

/-! ### Blocks of data memory -/

/-- A block of `n` cells from the address in `a` is in range (20_memory.md R112). -/
abbrev State.inRange (s : State) (a : U32) (n : Nat) : Prop := n = 0 ∨ a.toNat + n ≤ s.params.dmWords

/-- The contents `old` of a memory with the values `vs` written from cell `a` on. -/
def overlay (a : Nat) (vs : List F) (old : Nat → F) (c : Nat) : F :=
  if a ≤ c ∧ c < a + vs.length then vs.getD (c - a) 0#64 else old c

/-- Sample `i` of the input block whose address is in `r0`. -/
abbrev State.inputSample (s : State) (i : Nat) : F := s.readDM (s.r.r0.toNat + i)

/-- The value one place before place `i` of the sequence `v`, the register's value `c` before its start. -/
def lag1 (c : F) (v : Nat → F) (i : Nat) : F := if i = 0 then c else v (i - 1)

/-- The value two places before place `i`, the registers `c1` (one back) and `c2` (two back) before the start. -/
def lag2 (c1 c2 : F) (v : Nat → F) (i : Nat) : F := if i = 0 then c2 else lag1 c1 v (i - 1)

/-- Slot `p` of a circular buffer of `m` slots after the values `x 0` to `x (n - 1)` have been written from slot `wr` on: the
value written last to the slot, if one of them was. -/
def ringAfter (m wr : Nat) (x : Nat → F) (old : Nat → F) (n p : Nat) : F :=
  if (wr + n + m - 1 - p) % m < n then x (n - 1 - (wr + n + m - 1 - p) % m) else old p

/-- The addresses of the output blocks that the mask of `SVF.PROC` enables, in the order in which they are written
(43_iir_filters.md R331). -/
def State.svfOutputs (s : State) (mask : Nat) : List U32 :=
  (if mask.testBit 0 then [s.r.r1] else []) ++ (if mask.testBit 1 then [s.r.r3] else []) ++
    (if mask.testBit 2 then [s.r.r4] else []) ++ (if mask.testBit 3 then [s.r.r5] else [])

/-! ### Rounding -/

/-- The least magnitude, in units of `2^-1074`, that rounds to an infinity: half a unit in the last place above the greatest
finite value, `2^1024 - 2^970`. -/
def overflowAt : Nat := (2 ^ 54 - 1) * 2 ^ 2044

/-- `r` is the exact value `n / d`, in units of `2^-1074`, rounded by roundTiesToEven (00_scope.md R12): the nearest finite
value; of two equally near the one whose significand is even; an infinity from `overflowAt` on; the sign that of the exact
value. -/
structure RoundsTo (r : F) (n : Int) (d : Nat) : Prop where
  sign : n ≠ 0 → fneg? r = decide (n < 0)
  finite : n.natAbs < overflowAt * d → isfinite r = true
  overflow : overflowAt * d ≤ n.natAbs → isInf r = true
  nearest : isfinite r = true → ∀ z, isfinite z = true → (fval r * d - n).natAbs ≤ (fval z * d - n).natAbs
  even : isfinite r = true → ∀ z, isfinite z = true → fval z ≠ fval r →
    (fval z * d - n).natAbs = (fval r * d - n).natAbs → fmag r % 2 = 0

/-- A zero of a sign. -/
def signedZero (neg : Bool) : F := if neg then 0x8000000000000000#64 else 0x0000000000000000#64

/-! ### Legal words -/

/-- How many modes an opcode has, 0 for an opcode that is not assigned (30_encoding.md R143, R145). -/
def modeCount (op : Nat) : Nat :=
  if op ∈ [0x20, 0xA0] then 4
  else if op ∈ [0x40, 0xB0] then 2
  else if op = 0x50 then 8
  else if op = 0x61 then 16
  else if op = 0x71 then 3
  else if op ∈ [0x00, 0x01, 0x02, 0x10, 0x11, 0x12, 0x14, 0x15, 0x16, 0x21, 0x30, 0x31, 0x32, 0x33, 0x41, 0x42, 0x51, 0x52,
    0x53, 0x60, 0x62, 0x70, 0x72, 0x73, 0x80, 0x81, 0x82, 0x90, 0x91, 0x92, 0xC0, 0xC1, 0xC2, 0xC3] then 1
  else 0

/-- The opcodes whose commands use the `idx` field (30_encoding.md R145). -/
def usesIdx (op : Nat) : Bool := decide (op ∈ [0x50, 0x51, 0x52, 0x53, 0xC1])

/-- A legal word (30_encoding.md R142): its opcode is assigned, its mode is in the row's set, its `zero` field is 0, and so is
its `idx` field unless the row uses it. -/
abbrev legalWord (w : CmdWord) : Prop :=
  (w.extractLsb' 16 8).toNat < modeCount (w.extractLsb' 24 8).toNat ∧ w.extractLsb' 0 8 = 0#8 ∧
    (w.extractLsb' 8 8 = 0#8 ∨ usesIdx (w.extractLsb' 24 8).toNat = true)

/-! ### The fault a command must raise -/

/-- What a command demands of the state, class by class (60_exceptions.md R611 to R615). -/
structure Demands where
  /-- The size register that must not be 0 (R611). -/
  size? : Option U32 := none
  /-- `idx` names no section or band (R614). -/
  badIndex : Bool := false
  /-- A float parameter has no integer value where one is needed (R615). -/
  badParam : Bool := false
  /-- A size, length or count is outside what the unit accepts (R612). -/
  badSize : Bool := false
  /-- The blocks the command names (R613). -/
  blocks : List (U32 × Nat) := []

/-- `DL.INIT` and `CB.INIT` with the initial delay `ms` (60_exceptions.md R612, R615). -/
def delayDemands (s : State) (ms : F) : Demands :=
  { badParam :=
      !isfinite s.f.f0 || !isfinite s.f.f1 || !flt fzero s.f.f0 || flt s.f.f1 fzero || isNaN ms ||
        !isfinite (fdiv (fmul s.f.f1 s.f.f0) (fofNat 1000))
    badSize := flt (fofNat s.params.dlMax) (fdiv (fmul s.f.f1 s.f.f0) (fofNat 1000)) }

/-- `CV.INIT` and `FC.INIT`, `big` saying that a transform would be too large (60_exceptions.md R612, R613). -/
def responseDemands (s : State) (big : Bool) : Demands :=
  { badSize :=
      s.r.r2 == 0#32 || decide (s.params.blkMax < s.r.r2.toNat) || s.r.r3 == 0#32 ||
        decide (s.params.irMax < s.r.r3.toNat) || big
    blocks := [(s.r.r0, s.r.r3.toNat)] }

/-- A window of at least `lo` values (60_exceptions.md R612). -/
def windowDemands (s : State) (lo : Nat) : Demands :=
  { badSize := decide (s.r.r2.toNat < lo) || decide (s.params.winMax < s.r.r2.toNat) }

/-- A block of `r2` samples from `r0` filtered into `r1` (60_exceptions.md R612, R613). -/
def filterDemands (s : State) (size? : Option U32) : Demands :=
  { size? := size?
    badSize := decide (s.params.blkMax < s.r.r2.toNat)
    blocks := [(s.r.r0, s.r.r2.toNat), (s.r.r1, s.r.r2.toNat)] }

/-- A biquad command on section `k` (60_exceptions.md R614). -/
def sectionDemands (s : State) (k : Nat) : Demands := { badIndex := decide (s.params.nbq ≤ k) }

/-- `WS.DESIGN.*` (60_exceptions.md R612, R613, R615). -/
def kernelDemands (s : State) : Demands :=
  { badParam :=
      !isfinite s.f.f0 || !isfinite s.f.f2 || !flt fzero s.f.f0 || !flt fzero s.f.f2 ||
        !isfinite (fdiv (fmul (fofNat 4) s.f.f0) s.f.f2)
    badSize :=
      flt (fofNat s.params.irMax) (fdiv (fmul (fofNat 4) s.f.f0) s.f.f2) || decide (wsLength s.f.f0 s.f.f2 < 3) ||
        decide (s.params.irMax < wsLength s.f.f0 s.f.f2)
    blocks := [(s.r.r1, wsLength s.f.f0 s.f.f2)] }

/-- `CU.DESIGN.*` (60_exceptions.md R612, R613). -/
def responseCurveDemands (s : State) : Demands :=
  { badSize :=
      decide (s.r.r2.toNat < 3) || !ispow2 (2 * (s.r.r2.toNat - 1)) ||
        decide (s.params.nmax < 2 * (s.r.r2.toNat - 1))
    blocks := [(s.r.r0, s.r.r2.toNat), (s.r.r1, 2 * (s.r.r2.toNat - 1))] }

end Sys2Proof.Machine

namespace Sys2Proof

open Sys2Proof.Machine

/-- What each command demands (60_exceptions.md R611 to R615). -/
def Instr.demands (i : Instr) (s : State) : Demands :=
  match i with
  | .sysNop => {}
  | .sysClrerr => {}
  | .sysReset => {}
  | .dftInit => { badSize := s.r.r2 == 0#32 || decide (s.params.dftMax < s.r.r2.toNat) }
  | .dftFwd => { size? := some s.dftN, blocks := [(s.r.r0, s.dftN.toNat), (s.r.r1, s.dftN.toNat), (s.r.r2, s.dftN.toNat)] }
  | .dftInv => { size? := some s.dftN, blocks := [(s.r.r1, s.dftN.toNat), (s.r.r2, s.dftN.toNat), (s.r.r0, s.dftN.toNat)] }
  | .fftInit => { badSize := !ispow2 s.r.r2.toNat || decide (s.r.r2.toNat < 4) || decide (s.params.nmax < s.r.r2.toNat) }
  | .fftFwd => { size? := some s.fftN, blocks := [(s.r.r0, s.fftN.toNat), (s.r.r1, s.fftN.toNat), (s.r.r2, s.fftN.toNat)] }
  | .fftInv => { size? := some s.fftN, blocks := [(s.r.r1, s.fftN.toNat), (s.r.r2, s.fftN.toNat), (s.r.r0, s.fftN.toNat)] }
  | .winSetRect => windowDemands s 1
  | .winSetHann => windowDemands s 2
  | .winSetHamm => windowDemands s 2
  | .winSetBlack => windowDemands s 2
  | .winProc => { size? := some s.win.len, blocks := [(s.r.r0, s.win.len.toNat), (s.r.r1, s.win.len.toNat)] }
  | .dlInit => delayDemands s s.f.f2
  | .dlSetdelay => { size? := some s.dl.len, badParam := isNaN s.f.f2 }
  | .dlProc => filterDemands s (some s.dl.len)
  | .dlClear => { size? := some s.dl.len }
  | .spDesignLp => {}
  | .spDesignHp => {}
  | .spProc => filterDemands s none
  | .spReset => {}
  | .bqDesignLp k => sectionDemands s k
  | .bqDesignHp k => sectionDemands s k
  | .bqDesignBp k => sectionDemands s k
  | .bqDesignAp k => sectionDemands s k
  | .bqDesignNotch k => sectionDemands s k
  | .bqDesignPeak k => sectionDemands s k
  | .bqDesignLs k => sectionDemands s k
  | .bqDesignHs k => sectionDemands s k
  | .bqCustom k => sectionDemands s k
  | .bqProc k => { filterDemands s none with badIndex := decide (s.params.nbq ≤ k) }
  | .bqReset k => sectionDemands s k
  | .svfDesign => {}
  | .svfProc m =>
    { badSize := decide (s.params.blkMax < s.r.r2.toNat)
      blocks := (s.r.r0, s.r.r2.toNat) ::
        ((if m.testBit 0 then [(s.r.r1, s.r.r2.toNat)] else []) ++ (if m.testBit 1 then [(s.r.r3, s.r.r2.toNat)] else []) ++
          (if m.testBit 2 then [(s.r.r4, s.r.r2.toNat)] else []) ++ (if m.testBit 3 then [(s.r.r5, s.r.r2.toNat)] else [])) }
  | .svfReset => {}
  | .cbInit => delayDemands s fzero
  | .cbDesignFb => { size? := some s.dl.len, badParam := isNaN s.f.f2 }
  | .cbDesignFf => { size? := some s.dl.len, badParam := isNaN s.f.f2 }
  | .cbDesignAp => { size? := some s.dl.len, badParam := isNaN s.f.f2 }
  | .cbProc => filterDemands s (some s.dl.len)
  | .cbReset => { size? := some s.dl.len }
  | .cvInit => responseDemands s false
  | .cvProc => { size? := some s.cv.frame, blocks := [(s.r.r0, s.cv.frame.toNat), (s.r.r1, s.cv.frame.toNat)] }
  | .cvReset => { size? := some s.cv.frame }
  | .fcInit => responseDemands s (decide (s.params.nmax < max 4 (nextpow2 (s.r.r2.toNat + s.r.r3.toNat - 1))))
  | .fcProc => { size? := some s.fc.frame, blocks := [(s.r.r0, s.fc.frame.toNat), (s.r.r1, s.fc.frame.toNat)] }
  | .fcReset => { size? := some s.fc.frame }
  | .wsDesignLp => kernelDemands s
  | .wsDesignHp => kernelDemands s
  | .wsDesignBr => kernelDemands s
  | .wsDesignBp => kernelDemands s
  | .cuDesignLin => responseCurveDemands s
  | .cuDesignDb => responseCurveDemands s
  | .peqInit => { badSize := decide (s.params.nbq < max 2 s.r.r2.toNat) }
  | .peqSetband b => { size? := some s.peq.nb, badIndex := decide (s.peq.nb.toNat ≤ b) }
  | .peqProc => filterDemands s (some s.peq.nb)
  | .peqReset => { size? := some s.peq.nb }

/-- The fault a command must raise: the first class, in the order of 60_exceptions.md R602, of which it meets a cause. -/
def Instr.fault? (i : Instr) (s : State) : Option ErrCode :=
  let d := i.demands s
  if d.size? = some 0#32 then some .notCfg
  else if d.badIndex then some .index
  else if d.badParam then some .param
  else if d.badSize then some .size
  else if ∀ b ∈ d.blocks, s.inRange b.1 b.2 then none
  else some .addr

end Sys2Proof

namespace Sys2Proof.Machine

/-! ### The invariant -/

/-- Cells `0` to `n - 1` have been written. -/
def Memory.covers (n : Nat) (m : Memory) : Prop := ∀ i, i < n → (Memory.read? m i).isSome = true

/-- A memory of `size` cells in canonical form, its first `n` cells written (10_state.md R54, R71). -/
structure Memory.Holds (size n : Nat) (m : Memory) : Prop where
  wf : m.wf
  below : m.below size
  covers : m.covers n

/-- The fault record is whole: halted with a code of 60_exceptions.md R600, or empty (10_state.md R35 to R37). -/
def State.RecordWhole (s : State) : Prop :=
  if s.halt then ∃ c : ErrCode, s.errcode = c.code else s.errcode = 0#8 ∧ s.errcmd = 0#32

/-- DL is unconfigured, or its length is a power of two that holds both cursors and its float registers are in range
(42_delay_line.md R260). -/
structure DelayLine.Inv (p : Params) (d : DelayLine) : Prop where
  buffer : Memory.Holds p.dlMax d.len.toNat d.buf
  length : d.len ≠ 0#32 → ispow2 d.len.toNat = true ∧ d.len.toNat ≤ p.dlMax
  cursors : d.len ≠ 0#32 → d.wr.toNat < d.len.toNat ∧ d.rd.toNat < d.len.toNat
  rate : d.len ≠ 0#32 → isfinite d.fs = true ∧ flt fzero d.fs = true
  limit : d.len ≠ 0#32 → isfinite d.maxms = true ∧ fle fzero d.maxms = true ∧
    isfinite (fdiv (fmul d.maxms d.fs) (fofNat 1000)) = true
  delay : d.len ≠ 0#32 → fle fzero d.ms = true ∧ fle d.ms d.maxms = true
  fraction : d.len ≠ 0#32 → fle fzero d.frac = true ∧ flt d.frac fone = true

/-- CV (10_state.md R49). -/
structure DirectConv.Inv (p : Params) (c : DirectConv) : Prop where
  sizes : c.frame ≠ 0#32 → c.frame.toNat ≤ p.blkMax ∧ 1 ≤ c.irlen.toNat ∧ c.irlen.toNat ≤ p.irMax
  response : Memory.Holds p.irMax c.irlen.toNat c.ir
  tail : Memory.Holds (p.irMax - 1) (c.irlen.toNat - 1) c.ov

/-- FC (10_state.md R50). -/
structure FastConv.Inv (p : Params) (c : FastConv) : Prop where
  sizes : c.frame ≠ 0#32 → c.frame.toNat ≤ p.blkMax ∧ 1 ≤ c.irlen.toNat ∧ c.irlen.toNat ≤ p.irMax
  transform : c.frame ≠ 0#32 → ispow2 c.n.toNat = true ∧ 4 ≤ c.n.toNat ∧ c.n.toNat ≤ p.nmax ∧
    c.frame.toNat + c.irlen.toNat - 1 ≤ c.n.toNat
  re : Memory.Holds p.nmax c.n.toNat c.hr
  im : Memory.Holds p.nmax c.n.toNat c.hi
  tail : Memory.Holds (p.irMax - 1) (c.irlen.toNat - 1) c.ov

/-- The invariant of the machine: every register inside the range 10_state.md R42 to R51 gives it, every memory in canonical
form and of its size, every cell that a rule can read of a hidden memory written (R71). -/
structure State.Inv (s : State) : Prop where
  params : s.params.wf = true
  fits : s.params.fits = true
  sections : s.bq.length = s.params.nbq
  record : s.RecordWhole
  dft : s.dftN.toNat ≤ s.params.dftMax
  fft : s.fftN ≠ 0#32 → ispow2 s.fftN.toNat = true ∧ 4 ≤ s.fftN.toNat ∧ s.fftN.toNat ≤ s.params.nmax
  window : s.win.kind.toNat ≤ 3 ∧ s.win.len.toNat ≤ s.params.winMax
  coefficients : Memory.Holds s.params.winMax s.win.len.toNat s.win.coef
  delayLine : s.dl.Inv s.params
  comb : s.cb.mode.toNat ≤ 2
  direct : s.cv.Inv s.params
  fast : s.fc.Inv s.params
  equaliser : s.peq.nb ≠ 0#32 → 2 ≤ s.peq.nb.toNat ∧ s.peq.nb.toNat ≤ s.params.nbq
  data : Memory.Holds s.params.dmWords 0 s.dm

/-! ### Host transactions and reset -/

/-- The command word a transaction issues, if it issues one (48_system.md R500, 20_memory.md R104). -/
def HostEvent.word? : HostEvent → Option CmdWord
  | .writeReg slot v => if slot = 0x010 then some (v.setWidth 32) else none
  | .readReg _ => none
  | .writeDM _ _ => none
  | .readDM _ => none
  | .command w => some w
  | .hardwareReset => none

/-- What slot `slot` reads after a reset: the `reset` column of 10_state.md R40, with R39 and R46. -/
def resetSlot (p : Params) (slot : Nat) : BitVec 64 :=
  if slot = 0x014 then 0x594F444C#64
  else if slot = 0x018 then BitVec.ofNat 64 p.dmWords
  else if slot = 0x019 then BitVec.ofNat 64 p.nmax
  else if slot = 0x01A then BitVec.ofNat 64 p.dftMax
  else if slot = 0x01B then BitVec.ofNat 64 p.winMax
  else if slot = 0x01C then BitVec.ofNat 64 p.dlMax
  else if slot = 0x01D then BitVec.ofNat 64 p.blkMax
  else if slot = 0x01E then BitVec.ofNat 64 p.irMax
  else if slot = 0x01F then BitVec.ofNat 64 p.nbq
  else if slot = 0x030 then 0x3FF0000000000000#64
  else if slot = 0x040 then 1#64
  else if 0x100 ≤ slot ∧ slot < 0x100 + 16 * p.nbq ∧ (slot - 0x100) % 16 = 0 then 0x3FF0000000000000#64
  else 0#64

/-- The `u32` slots the host may write (10_state.md R40). -/
def isRwInt (slot : Nat) : Bool := decide (slot < 0x008)

/-- The `F` slots the host may write (10_state.md R40). -/
def isRwFloat (p : Params) (slot : Nat) : Bool :=
  decide (0x008 ≤ slot ∧ slot < 0x010) || decide (0x030 ≤ slot ∧ slot ≤ 0x034) || decide (0x038 ≤ slot ∧ slot ≤ 0x03B) ||
    decide (0x041 ≤ slot ∧ slot ≤ 0x043) ||
    decide (0x100 ≤ slot ∧ slot < 0x100 + 16 * p.nbq ∧ (slot - 0x100) % 16 ≤ 8)

end Sys2Proof.Machine
end

