-- ==== Sys2Proof/Certificates/Slice0/Obligations.lean ====
section
/-! DEFINITION. The statements for the provers. -/

section

open Sys2Proof Sys2Proof.Machine

/-! ### Encoding and decoding -/

/-- 30_encoding.md R142, R145: decoding the word of a well-formed command gives the command back, for every command and every
value of its `idx` or mask field. -/
def Obligations.decode_inverts_encode : Prop :=
  ∀ i : Instr, i.wf = true → decode (encode i) = .ok i

/-- 30_encoding.md R142: a legal word selects exactly one row. The command it decodes to is well formed and is encoded by
that word and no other, so no bit of a legal word is ignored. -/
def Obligations.legal_word_is_one_command : Prop :=
  ∀ (w : CmdWord) (i : Instr), decode w = .ok i → i.wf = true ∧ encode i = w

/-- 30_encoding.md R142, R143, R145: a word decodes exactly when it is legal. `legalWord` reads the word's bits and the
opcode map afresh (Safety.lean). -/
def Obligations.a_word_decodes_exactly_when_legal : Prop :=
  ∀ w : CmdWord, (∃ i, decode w = .ok i) ↔ legalWord w

/-- 30_encoding.md R145 and 95_test_vectors.md section 10.1: words written out from the opcode map decode to the commands
they stand for. -/
def Obligations.sample_words_decode : Prop :=
  decode 0x00000000#32 = .ok .sysNop ∧ decode 0x15000000#32 = .ok .fftFwd ∧ decode 0x20030000#32 = .ok .winSetBlack ∧
    decode 0x30000000#32 = .ok .dlInit ∧ decode 0x40010000#32 = .ok .spDesignHp ∧
    decode 0x50070700#32 = .ok (.bqDesignHs 7) ∧ decode 0x5200FF00#32 = .ok (.bqProc 255) ∧
    decode 0x61050000#32 = .ok (.svfProc 5) ∧ decode 0x71020000#32 = .ok .cbDesignAp ∧
    decode 0x81000000#32 = .ok .cvProc ∧ decode 0x90000000#32 = .ok .fcInit ∧ decode 0xA0030000#32 = .ok .wsDesignBp ∧
    decode 0xB0010000#32 = .ok .cuDesignDb ∧ decode 0xC1000100#32 = .ok (.peqSetband 1)

/-! ### The step -/

/-- 48_system.md R504, 20_memory.md R104, 00_scope.md R7; the list of transactions is the model's (log 6): when the next host
transaction is a `CMD` write whose word decodes to `i`, and the engine is not halted, a step is `exec i` on the state with
that transaction taken from the list; the engine has no program counter to move. -/
def Obligations.a_step_runs_the_decoded_command : Prop :=
  ∀ (s : State) (w : CmdWord) (i : Instr) (rest : List HostEvent), s.halt = false → decode w = .ok i →
    (s.host = .command w :: rest → step s = exec i (s.setHost rest)) ∧
    (∀ v : BitVec 64, v.setWidth 32 = w → s.host = .writeReg 0x010 v :: rest → step s = exec i (s.setHost rest)) ∧
    step (s.withFetchWord 32 w.toNat) = exec i s

/-- 60_exceptions.md R610: with the engine not halted, `HostCommand` of a word that is not legal enters `E_ILLEGAL` with that
word in `ERRCMD` and changes nothing else; the rule's words are not legal, and `legalWord` is its list of causes. -/
def Obligations.an_illegal_word_faults : Prop :=
  (∀ (s : State) (w : CmdWord), s.halt = false → ¬ legalWord w →
    hostCommand w s = .next { s with halt := true, errcode := 1#8, errcmd := w }) ∧
  ¬ legalWord 0xFFFFFFFF#32 ∧ ¬ legalWord 0x15000001#32 ∧ ¬ legalWord 0x20040000#32 ∧ ¬ legalWord 0x61100000#32 ∧
  ¬ legalWord 0x03000000#32

/-- 48_system.md R504, 60_exceptions.md R625: while `HALT` is set a `CMD` write executes only the exact words of `SYS.CLRERR`
and `SYS.RESET`; every other word, legal or not, is dropped without any effect. -/
def Obligations.a_halted_engine_drops_commands : Prop :=
  ∀ (s : State) (e : HostEvent) (rest : List HostEvent) (w : CmdWord), s.halt = true → s.host = e :: rest →
    e.word? = some w →
    (w ≠ 0x01000000#32 → w ≠ 0x02000000#32 → step s = .next { s with host := rest }) ∧
    (w = 0x01000000#32 → step s = exec .sysClrerr { s with host := rest }) ∧
    (w = 0x02000000#32 → step s = exec .sysReset { s with host := rest })

/-- 60_exceptions.md R604, R606, R625: a recorded fault is never overwritten. While halted, only `SYS.CLRERR`, `SYS.RESET` and
hardware reset change the fault record, and no other transaction changes a unit or a hidden memory, except that a
register write may change the registers the host may write (`r`, `f`, SP, BQ, SVF and the comb's gain and filter state); which
one it changes is `host_register_writes`. -/
def Obligations.a_recorded_fault_is_kept : Prop :=
  ∀ s t : State, s.halt = true → step s = .next t →
    (∀ e rest, s.host = e :: rest → e.word? ≠ some 0x01000000#32 ∧ e.word? ≠ some 0x02000000#32 ∧ e ≠ .hardwareReset) →
    t.halt = true ∧ t.errcode = s.errcode ∧ t.errcmd = s.errcmd ∧ t.dftN = s.dftN ∧ t.fftN = s.fftN ∧ t.win = s.win ∧
      t.dl = s.dl ∧ t.cb.mode = s.cb.mode ∧ t.cv = s.cv ∧ t.fc = s.fc ∧ t.peq = s.peq ∧
      ((∀ slot v rest, s.host ≠ .writeReg slot v :: rest) →
        t.r = s.r ∧ t.f = s.f ∧ t.sp = s.sp ∧ t.bq = s.bq ∧ t.svf = s.svf ∧ t.cb = s.cb) ∧
      ((∀ a v rest, s.host ≠ .writeDM a v :: rest) → t.dm = s.dm)

/-- 60_exceptions.md R602, R603, R604, R611 to R615: every command raises exactly the fault the rules give it, the class
decided in the order `E_NOTCFG`, `E_INDEX`, `E_PARAM`, `E_SIZE`, `E_ADDR`; the fault changes the record alone; and a command
that meets no cause of a fault completes without recording one. `Instr.fault?` is written from R611 to R615 (Safety.lean). The
clauses hold of `exec` in a halted state too, which the dispatcher reaches with `SYS.CLRERR` and `SYS.RESET` only: the model's
choice (log 11). -/
def Obligations.faults_follow_the_rules_in_order : Prop :=
  ∀ (i : Instr) (s : State),
    (∀ c, i.fault? s = some c →
      exec i s = .next { s with halt := true, errcode := c.code, errcmd := encode i }) ∧
    (i.fault? s = none → ∃ t, exec i s = .next t ∧ (s.halt = false → t.halt = false ∧
      (i ≠ .sysClrerr → i ≠ .sysReset → t.errcode = s.errcode ∧ t.errcmd = s.errcmd)))

/-- 48_system.md R500 to R504, 60_exceptions.md R601: no host transaction, with whatever operands and in whatever state, stops
the machine; a fault is a recorded state. With no transaction pending a step changes nothing (log 6). -/
def Obligations.every_transaction_completes : Prop :=
  (∀ s : State, ∃ t, step s = .next t) ∧ ∀ s : State, s.host = [] → step s = .next s

/-! ### System commands and reset -/

/-- 48_system.md R506, R507, 60_exceptions.md R605: `SYS.NOP` changes nothing; `SYS.CLRERR`, halted or not, clears the fault
record and changes nothing else. -/
def Obligations.nop_and_clear_error_complete : Prop :=
  encode .sysNop = 0x00000000#32 ∧ encode .sysClrerr = 0x01000000#32 ∧
  ∀ s : State, exec .sysNop s = .next s ∧ exec .sysClrerr s = .next { s with halt := false, errcode := 0#8, errcmd := 0#32 }

/-- 48_system.md R508, 10_state.md R70, 70_reset_and_hazards.md R702: `SYS.RESET`, halted or not, leaves every slot of the
register window at its reset value, and keeps data memory and the hidden memories. -/
def Obligations.software_reset_restores_every_register : Prop :=
  encode .sysReset = 0x02000000#32 ∧
  ∀ s : State, s.params.wf = true → ∃ t, exec .sysReset s = .next t ∧
    (∀ slot, t.readSlot slot = resetSlot s.params slot) ∧ t.halt = false ∧
    t.dm = s.dm ∧ t.win.coef = s.win.coef ∧ t.dl.buf = s.dl.buf ∧ t.cv.ir = s.cv.ir ∧ t.cv.ov = s.cv.ov ∧
    t.fc.hr = s.fc.hr ∧ t.fc.hi = s.fc.hi ∧ t.fc.ov = s.fc.ov ∧
    t.params = s.params ∧ t.resets = s.resets ∧ t.host = s.host ∧ t.replies = s.replies

/-- 70_reset_and_hazards.md R700, R701, 20_memory.md R113: hardware reset leaves every slot at its reset value and no cell of
data memory or of a hidden memory written; `State.resetWith p` is that state for the parameters `p` (00_scope.md R9), and
`State.reset` for the defaults. What an unwritten cell reads is the model's free value (log 2); that the host's pending
transactions outlast the reset is the model's choice (log 7). -/
def Obligations.hardware_reset_state : Prop :=
  (∀ s : State, s.params.wf = true → ∃ t, perform .hardwareReset s = .next t ∧
    (∀ slot, t.readSlot slot = resetSlot s.params slot) ∧ t.halt = false ∧
    (∀ a, t.readDM a = Config.powerOn (s.resets + 1) .dm a) ∧ t.win.coef = [] ∧ t.dl.buf = [] ∧ t.cv.ir = [] ∧
    t.cv.ov = [] ∧ t.fc.hr = [] ∧ t.fc.hi = [] ∧ t.fc.ov = [] ∧ t.params = s.params ∧ t.host = s.host) ∧
  (∀ p : Params, p.wf = true → (∀ slot, (State.resetWith p).readSlot slot = resetSlot p slot) ∧
    (State.resetWith p).params = p ∧ (State.resetWith p).halt = false ∧ (State.resetWith p).dm = [] ∧
    (State.resetWith p).win.coef = [] ∧ (State.resetWith p).dl.buf = [] ∧ (State.resetWith p).cv.ir = [] ∧
    (State.resetWith p).cv.ov = [] ∧ (State.resetWith p).fc.hr = [] ∧ (State.resetWith p).fc.hi = [] ∧
    (State.resetWith p).fc.ov = []) ∧
  State.reset = State.resetWith Params.default

/-! ### The host port -/

/-- 48_system.md R500: a write to `CMD` issues the low 32 bits as a command word; a write to any other slot, halted or not,
changes what that slot reads if the host may write it (a `u32` register takes bits 31:0, an F register all 64) and changes
nothing else. -/
def Obligations.host_register_writes : Prop :=
  ∀ (s : State) (slot : Nat) (v : BitVec 64), s.Inv →
    (slot = 0x010 → hostWriteReg slot v s = hostCommand (v.setWidth 32) s) ∧
    (slot ≠ 0x010 → ∃ t, hostWriteReg slot v s = .next t ∧
      (∀ k, t.readSlot k =
        if k = slot ∧ isRwInt slot = true then (v.setWidth 32).setWidth 64
        else if k = slot ∧ isRwFloat s.params slot = true then v
        else s.readSlot k) ∧
      t.halt = s.halt ∧ t.dm = s.dm ∧ t.win = s.win ∧ t.dl = s.dl ∧ t.cv = s.cv ∧ t.fc = s.fc ∧ t.params = s.params ∧
      t.resets = s.resets ∧ t.host = s.host ∧ t.replies = s.replies)

/-- 10_state.md R39, R40, R41, R46, 48_system.md R501: which register each slot reads, `u32` registers zero-extended; the
`CAP_*` slots read the parameters in 64 bits; `CMD`, reserved slots and slots beyond `0x3FF` read 0. -/
def Obligations.slots_read_their_registers : Prop :=
  ∀ s : State, s.params.wf = true →
    ([0x000, 0x001, 0x002, 0x003, 0x004, 0x005, 0x006, 0x007].map s.readSlot =
      [s.r.r0, s.r.r1, s.r.r2, s.r.r3, s.r.r4, s.r.r5, s.r.r6, s.r.r7].map fun v => v.setWidth 64) ∧
    ([0x008, 0x009, 0x00A, 0x00B, 0x00C, 0x00D, 0x00E, 0x00F].map s.readSlot =
      [s.f.f0, s.f.f1, s.f.f2, s.f.f3, s.f.f4, s.f.f5, s.f.f6, s.f.f7]) ∧
    s.readSlot 0x010 = 0#64 ∧ s.readSlot 0x011 = (if s.halt then 1#64 else 0#64) ∧
    s.readSlot 0x012 = s.errcode.setWidth 64 ∧ s.readSlot 0x013 = s.errcmd.setWidth 64 ∧
    s.readSlot 0x014 = 0x594F444C#64 ∧
    ([0x018, 0x019, 0x01A, 0x01B, 0x01C, 0x01D, 0x01E, 0x01F].map s.readSlot =
      [s.params.dmWords, s.params.nmax, s.params.dftMax, s.params.winMax, s.params.dlMax, s.params.blkMax, s.params.irMax,
        s.params.nbq].map fun n => BitVec.ofNat 64 n) ∧
    ([0x020, 0x021, 0x024, 0x025, 0x02B, 0x02C, 0x02D, 0x040, 0x048, 0x049, 0x04C, 0x04D, 0x04E, 0x051].map s.readSlot =
      [s.dftN, s.fftN, s.win.kind, s.win.len, s.dl.len, s.dl.wr, s.dl.rd, s.cb.mode, s.cv.frame, s.cv.irlen, s.fc.frame,
        s.fc.irlen, s.fc.n, s.peq.nb].map fun v => v.setWidth 64) ∧
    ([0x028, 0x029, 0x02A, 0x02E, 0x030, 0x031, 0x032, 0x033, 0x034, 0x038, 0x039, 0x03A, 0x03B, 0x041, 0x042, 0x043,
      0x050].map s.readSlot =
      [s.dl.fs, s.dl.maxms, s.dl.ms, s.dl.frac, s.sp.a0, s.sp.a1, s.sp.b1, s.sp.x1, s.sp.y1, s.svf.f, s.svf.q, s.svf.x1,
        s.svf.x2, s.cb.gain, s.cb.x1, s.cb.y1, s.peq.fs]) ∧
    (∀ k, k < s.params.nbq →
      ([0, 1, 2, 3, 4, 5, 6, 7, 8].map fun j => s.readSlot (0x100 + 16 * k + j)) =
        [(s.section k).b0, (s.section k).b1, (s.section k).b2, (s.section k).a1, (s.section k).a2, (s.section k).x1,
          (s.section k).x2, (s.section k).y1, (s.section k).y2]) ∧
    (∀ slot, (slot ∈ [0x015, 0x016, 0x017, 0x022, 0x023, 0x026, 0x027, 0x02F, 0x035, 0x036, 0x037, 0x03C, 0x03D, 0x03E, 0x03F,
        0x044, 0x045, 0x046, 0x047, 0x04A, 0x04B, 0x04F] ∨ (0x052 ≤ slot ∧ slot < 0x100) ∨
        (0x100 ≤ slot ∧ 9 ≤ (slot - 0x100) % 16) ∨ 0x100 + 16 * s.params.nbq ≤ slot) → s.readSlot slot = 0#64)

/-- 48_system.md R502, R503: a host write of a cell below `DMWORDS` stores all 64 bits, one beyond it has no effect; a host
read returns the cell, or 0 beyond `DMWORDS`, and changes nothing but the model's record of what the host has read (log 6).
The same of `HostReadReg` (R501), and `HostCommand(w)` is `HostWriteReg(0x010, zext_64(w))` (20_memory.md R104). -/
def Obligations.host_port_transactions : Prop :=
  ∀ s : State,
    (∀ a v, ∃ t, perform (.writeDM a v) s = .next t ∧ t = { s with dm := t.dm } ∧
      ∀ c, t.readDM c = if c = a ∧ a < s.params.dmWords then v else s.readDM c) ∧
    (∀ a, perform (.readDM a) s =
      .next { s with replies := (if a < s.params.dmWords then s.readDM a else 0#64) :: s.replies }) ∧
    (∀ slot, perform (.readReg slot) s = .next { s with replies := s.readSlot slot :: s.replies }) ∧
    (∀ w : CmdWord, perform (.command w) s = perform (.writeReg 0x010 (w.setWidth 64)) s)

/-! ### The invariant -/

/-- The state after reset meets the invariant, for the default parameters and for any others of 00_scope.md R9 whose sizes fit
the size registers (10_state.md R42 to R51, R70; log 1). -/
def Obligations.reset_meets_the_invariant : Prop :=
  State.reset.Inv ∧ ∀ p : Params, p.wf = true → p.fits = true → (State.resetWith p).Inv

/-- 10_state.md R42 to R51, R54, R71, 42_delay_line.md R260, 43_iir_filters.md R310: every step keeps the invariant. Every size
register stays 0 or in its range, the delay line's cursors stay inside its buffer and its fraction in `[0, 1)`, every memory
stays inside its size and in canonical form, and every hidden cell a rule can read has been written. -/
def Obligations.every_step_keeps_the_invariant : Prop :=
  ∀ s t : State, s.Inv → step s = .next t → t.Inv

/-! ### What a command may change -/

/-- 10_state.md R31, R32, 70_reset_and_hazards.md R720: `r0..r7` and `f0..f7` keep their values from command to command; only
`WS.DESIGN.*` and `CU.DESIGN.*`, which write `r7`, and `SYS.RESET` change them. -/
def Obligations.argument_registers_persist : Prop :=
  ∀ (i : Instr) (s t : State), exec i s = .next t → i ≠ .sysReset →
    t.f = s.f ∧
    (i ∉ [.wsDesignLp, .wsDesignHp, .wsDesignBr, .wsDesignBp, .cuDesignLin, .cuDesignDb] → t.r = s.r) ∧
    t.r = { s.r with r7 := t.r.r7 }

/-- 10_state.md R40 (column `written by commands`), R54, 70_reset_and_hazards.md R713: a command other than `SYS.RESET` changes
only the units its group owns; DL and CB share the delay line, BQ and PEQ the sections, and the commands without an output
block leave data memory alone. -/
def Obligations.commands_change_only_their_own_unit : Prop :=
  ∀ (i : Instr) (s t : State), exec i s = .next t → i ≠ .sysReset →
    (i ≠ .dftInit → t.dftN = s.dftN) ∧ (i ≠ .fftInit → t.fftN = s.fftN) ∧
    (i ∉ [.winSetRect, .winSetHann, .winSetHamm, .winSetBlack] → t.win = s.win) ∧
    (i ∉ [.dlInit, .dlSetdelay, .dlProc, .dlClear, .cbInit, .cbDesignFb, .cbDesignFf, .cbDesignAp, .cbProc, .cbReset] →
      t.dl = s.dl) ∧
    (i ∉ [.dlInit, .cbInit] → t.dl.fs = s.dl.fs ∧ t.dl.maxms = s.dl.maxms ∧ t.dl.len = s.dl.len) ∧
    (i ∉ [.spDesignLp, .spDesignHp, .spProc, .spReset] → t.sp = s.sp) ∧
    (i ∉ [.peqInit, .peqProc, .peqReset] → (∀ k, i ≠ .peqSetband k) → (∀ k, i ∉ [.bqDesignLp k, .bqDesignHp k,
      .bqDesignBp k, .bqDesignAp k, .bqDesignNotch k, .bqDesignPeak k, .bqDesignLs k, .bqDesignHs k, .bqCustom k, .bqProc k,
      .bqReset k]) → t.bq = s.bq) ∧
    (i ∉ [.svfDesign, .svfReset] → (∀ m, i ≠ .svfProc m) → t.svf = s.svf) ∧
    (i ∉ [.cbInit, .cbDesignFb, .cbDesignFf, .cbDesignAp, .cbProc, .cbReset] → t.cb = s.cb) ∧
    (i ∉ [.cvInit, .cvProc, .cvReset] → t.cv = s.cv) ∧ (i ∉ [.fcInit, .fcProc, .fcReset] → t.fc = s.fc) ∧
    (i ≠ .peqInit → t.peq = s.peq) ∧
    (i ∉ [.dftFwd, .dftInv, .fftFwd, .fftInv, .winProc, .dlProc, .spProc, .cbProc, .cvProc, .fcProc, .wsDesignLp,
      .wsDesignHp, .wsDesignBr, .wsDesignBp, .cuDesignLin, .cuDesignDb, .peqProc] → (∀ k, i ≠ .bqProc k) →
      (∀ m, i ≠ .svfProc m) → t.dm = s.dm) ∧
    t.params = s.params ∧ t.resets = s.resets ∧ t.host = s.host ∧ t.replies = s.replies

/-! ### Floating point -/

/-- 00_scope.md R14 (b) and (c): the exact cases of the configured functions, and a NaN for a NaN operand and, for `sin` and
`cos`, for an infinity. 46_kernel_design.md R441: `phase` of operands that are no NaN lies in `(-π, π]`, that is between the F
values `-PI` and `PI` (where 93_implementation_defined.md I6 leaves `atan2` any value, the range is the model's choice,
log 4). -/
def Obligations.configured_functions_exact_cases : Prop :=
  ∀ p : Params,
    nsin p 0x0000000000000000#64 = 0x0000000000000000#64 ∧ nsin p 0x8000000000000000#64 = 0x8000000000000000#64 ∧
    (∀ x, isZero x = true → ncos p x = 0x3FF0000000000000#64 ∧ nexp p x = 0x3FF0000000000000#64 ∧
      npow10 p x = 0x3FF0000000000000#64) ∧
    nlog10 p 0x3FF0000000000000#64 = 0x0000000000000000#64 ∧
    (∀ x, isNaN x = true → isNaN (nsin p x) = true ∧ isNaN (ncos p x) = true ∧ isNaN (nexp p x) = true ∧
      isNaN (npow10 p x) = true ∧ isNaN (nlog10 p x) = true ∧
      ∀ y, isNaN (natan2 p x y) = true ∧ isNaN (natan2 p y x) = true) ∧
    (∀ x, isInf x = true → isNaN (nsin p x) = true ∧ isNaN (ncos p x) = true) ∧
    (∀ re im, isNaN re = false → isNaN im = false →
      fle 0xC00921FB54442D18#64 (phase p re im) = true ∧ fle (phase p re im) 0x400921FB54442D18#64 = true)

/-- 00_scope.md R16: `float(n)` is the integer rounded by roundTiesToEven, exact for `|n| ≤ 2^53`; `floor(v)` and `ceil(v)` of
a finite `v` are the greatest integer not above it and the least integer not below it. -/
def Obligations.integers_convert_exactly : Prop :=
  (∀ n : Int, RoundsTo (fofInt n) (n * (fUnit : Int)) 1) ∧
  (∀ n : Int, n.natAbs ≤ 2 ^ 53 → isfinite (fofInt n) = true ∧ fval (fofInt n) = n * (fUnit : Int)) ∧
  ∀ v : F, isfinite v = true →
    ffloor v * (fUnit : Int) ≤ fval v ∧ fval v < (ffloor v + 1) * (fUnit : Int) ∧
    (fceil v - 1) * (fUnit : Int) < fval v ∧ fval v ≤ fceil v * (fUnit : Int)

/-- 00_scope.md R12: addition, subtraction, multiplication and division of finite values are the exact result rounded by
roundTiesToEven, overflow to an infinity included (`RoundsTo`, Safety.lean; values are counted in units of `2^-1074`), and an
exact zero has the sign IEEE 754 gives it; so is the square root of a finite value that is not negative, which is compared
through the squares of the midpoints. An invalid operation gives a NaN, and division of a finite value by zero an infinity. -/
def Obligations.arithmetic_rounds_to_nearest : Prop :=
  (∀ x y : F, isfinite x = true → isfinite y = true →
    RoundsTo (fadd x y) (fval x + fval y) 1 ∧ RoundsTo (fsub x y) (fval x - fval y) 1 ∧
    RoundsTo (fmul x y) (fval x * fval y) fUnit ∧
    (isZero y = false →
      RoundsTo (fdiv x y) (if fneg? y then -(fval x * fUnit) else fval x * fUnit) (fscaled y)) ∧
    (fval x + fval y = 0 → fadd x y = signedZero (fneg? x && fneg? y)) ∧
    (fval x - fval y = 0 → fsub x y = signedZero (fneg? x && !fneg? y)) ∧
    (fval x * fval y = 0 → fmul x y = signedZero (fneg? x != fneg? y)) ∧
    (fval x = 0 → isZero y = false → fdiv x y = signedZero (fneg? x != fneg? y)) ∧
    (isZero x = false → isZero y = true → isInf (fdiv x y) = true ∧ fneg? (fdiv x y) = (fneg? x != fneg? y))) ∧
  (∀ x : F, isfinite x = true → fneg? x = false →
    isfinite (fsqrt x) = true ∧ fneg? (fsqrt x) = false ∧ ∀ z, isfinite z = true → 0 ≤ fval z →
      (fval (fsqrt x) < fval z → 4 * (fval x * fUnit) ≤ (fval (fsqrt x) + fval z) ^ 2) ∧
      (fval z < fval (fsqrt x) → (fval (fsqrt x) + fval z) ^ 2 ≤ 4 * (fval x * fUnit)) ∧
      (fval z ≠ fval (fsqrt x) → (fval (fsqrt x) + fval z) ^ 2 = 4 * (fval x * fUnit) → fmag (fsqrt x) % 2 = 0)) ∧
  (∀ x y : F, isNaN x = true ∨ isNaN y = true →
    isNaN (fadd x y) = true ∧ isNaN (fsub x y) = true ∧ isNaN (fmul x y) = true ∧ isNaN (fdiv x y) = true) ∧
  (∀ x y : F, isInf x = true → isInf y = true →
    (fneg? x ≠ fneg? y → isNaN (fadd x y) = true) ∧ (fneg? x = fneg? y → isNaN (fsub x y) = true) ∧
    isNaN (fdiv x y) = true) ∧
  (∀ x y : F, isInf x = true → isZero y = true → isNaN (fmul x y) = true ∧ isNaN (fmul y x) = true) ∧
  (∀ x y : F, isZero x = true → isZero y = true → isNaN (fdiv x y) = true) ∧
  ∀ x : F, (isZero x = true → fsqrt x = x) ∧
    (isNaN x = true ∨ (fneg? x = true ∧ isZero x = false) → isNaN (fsqrt x) = true)

/-! ### XF -/

/-- 40_transform.md R201, R210: `DFT.INIT` accepts every size from 1 to `DFTMAX`, `FFT.INIT` exactly the powers of two from 4 to
`NMAX`; each sets its own size register and nothing else, and refuses any other size with `E_SIZE`. -/
def Obligations.transform_sizes : Prop :=
  ∀ s : State,
    (1 ≤ s.r.r2.toNat → s.r.r2.toNat ≤ s.params.dftMax → exec .dftInit s = .next { s with dftN := s.r.r2 }) ∧
    ((s.r.r2.toNat < 1 ∨ s.params.dftMax < s.r.r2.toNat) →
      exec .dftInit s = .next { s with halt := true, errcode := 3#8, errcmd := 0x10000000#32 }) ∧
    ((∃ p, s.r.r2.toNat = 2 ^ p) → 4 ≤ s.r.r2.toNat → s.r.r2.toNat ≤ s.params.nmax →
      exec .fftInit s = .next { s with fftN := s.r.r2 }) ∧
    (((¬ ∃ p, s.r.r2.toNat = 2 ^ p) ∨ s.r.r2.toNat < 4 ∨ s.params.nmax < s.r.r2.toNat) →
      exec .fftInit s = .next { s with halt := true, errcode := 3#8, errcmd := 0x14000000#32 })

/-- 40_transform.md R202, 20_memory.md R110, R111: `DFT.FWD` writes bin `k` of the real and then of the imaginary block, the
terms added (subtracted) in ascending `i` from `+0.0`, and changes nothing else; where the blocks overlap the imaginary one
wins. -/
def Obligations.dft_forward : Prop :=
  ∀ s : State, Instr.dftFwd.fault? s = none → ∃ (t : State) (ar ai : Nat → Nat → F),
    exec .dftFwd s = .next t ∧
    (∀ k, ar k 0 = 0#64 ∧ ai k 0 = 0#64) ∧
    (∀ k i, ar k (i + 1) = fadd (ar k i) (fmul (s.inputSample i) (dftC s.dftN.toNat (k * i % s.dftN.toNat)))) ∧
    (∀ k i, ai k (i + 1) = fsub (ai k i) (fmul (s.inputSample i) (dftS s.dftN.toNat (k * i % s.dftN.toNat)))) ∧
    t = { s with dm := t.dm } ∧
    ∀ a, t.readDM a =
      overlay s.r.r2.toNat ((List.range s.dftN.toNat).map fun k => ai k s.dftN.toNat)
        (overlay s.r.r1.toNat ((List.range s.dftN.toNat).map fun k => ar k s.dftN.toNat) s.readDM) a

/-- 40_transform.md R203, 90_conflicts.md C7: `DFT.INV` scales each bin by division by `float(N)`, negates the imaginary part,
and accumulates each sample in ascending `k` from `+0.0`; the spectrum blocks are not written. -/
def Obligations.dft_inverse : Prop :=
  ∀ s : State, Instr.dftInv.fault? s = none → ∃ (t : State) (acc : Nat → Nat → F),
    exec .dftInv s = .next t ∧
    (∀ i, acc i 0 = 0#64) ∧
    (∀ i k, k < s.dftN.toNat → acc i (k + 1) =
      fadd (acc i k)
        (fadd (fmul (fdiv (s.readDM (s.r.r1.toNat + k)) (fofNat s.dftN.toNat)) (dftC s.dftN.toNat (k * i % s.dftN.toNat)))
          (fmul (fneg (fdiv (s.readDM (s.r.r2.toNat + k)) (fofNat s.dftN.toNat)))
            (dftS s.dftN.toNat (k * i % s.dftN.toNat))))) ∧
    t = { s with dm := t.dm } ∧
    ∀ a, t.readDM a = overlay s.r.r0.toNat ((List.range s.dftN.toNat).map fun i => acc i s.dftN.toNat) s.readDM a

/-- 10_state.md R61: the entries of the DFT table that the rule gives exactly. -/
def Obligations.dft_table_exact_entries : Prop :=
  ∀ n : Nat, 0 < n →
    dftC n 0 = 0x3FF0000000000000#64 ∧ dftS n 0 = 0#64 ∧
    (n % 4 = 0 → dftC n (n / 4) = 0#64 ∧ dftS n (n / 4) = 0x3FF0000000000000#64 ∧
      dftC n (n / 2) = 0xBFF0000000000000#64 ∧ dftS n (n / 2) = 0#64 ∧
      dftC n (3 * (n / 4)) = 0#64 ∧ dftS n (3 * (n / 4)) = 0xBFF0000000000000#64)

/-- 40_transform.md R211, R213, R215, R217: `fft_fwd(N, x)` for `N = 2^p`, `p ≥ 2`, `H = N/2`, is in this order: the even
samples packed as real and the odd ones as imaginary parts of the lower half, the upper half `+0.0`; the bit reversal over
`H`; the `log2(H)` butterfly passes over `H` of half-widths `1, 2, 4, ..., H/2` (`w k` is the state before pass `k`); the unpack;
the final pass of half-width `H` over `N`. The three steps named here have the statements `bit_reversal_permutes`,
`butterfly_pass` and `unpack_splits_the_spectrum`. R220, 20_memory.md R111: `FFT.FWD` writes the `N` real and then the `N`
imaginary values of `fft_fwd(N, x)` and changes nothing else. -/
def Obligations.fft_forward : Prop :=
  (∀ (p : Nat) (x : List F), 2 ≤ p → ∃ w : Nat → Work,
    w 0 = bitReverse (2 ^ (p - 1))
      { wr := (List.range (2 ^ p)).map fun i => if i < 2 ^ (p - 1) then at0 x (2 * i) else 0#64
        wi := (List.range (2 ^ p)).map fun i => if i < 2 ^ (p - 1) then at0 x (2 * i + 1) else 0#64 } ∧
    (∀ k, k < p - 1 → w (k + 1) = bflyPass (w k) (2 ^ k) (2 ^ (p - 1))) ∧
    fftFwd (2 ^ p) x = bflyPass (unpack (2 ^ (p - 1)) (2 ^ (p - 2)) (w (p - 1))) (2 ^ (p - 1)) (2 ^ p)) ∧
  ∀ s : State, Instr.fftFwd.fault? s = none → s.Inv → ∃ (t : State) (g : Work),
    exec .fftFwd s = .next t ∧ g = fftFwd s.fftN.toNat ((List.range s.fftN.toNat).map s.inputSample) ∧
    g.wr.length = s.fftN.toNat ∧ g.wi.length = s.fftN.toNat ∧
    t = { s with dm := t.dm } ∧
    ∀ a, t.readDM a = overlay s.r.r2.toNat g.wi (overlay s.r.r1.toNat g.wr s.readDM) a

/-- 40_transform.md R221, R219, 90_conflicts.md C1: `FFT.INV` rebuilds bins above `N/2` by conjugate symmetry, adds the
imaginary to the real part, transforms forward and takes `(real + imag) / N`; nothing but the signal block changes. -/
def Obligations.fft_inverse : Prop :=
  ∀ s : State, Instr.fftInv.fault? s = none → ∃ (t : State) (g : Work),
    exec .fftInv s = .next t ∧
    g = fftFwd s.fftN.toNat ((List.range s.fftN.toNat).map fun k =>
      if k ≤ s.fftN.toNat / 2 then fadd (s.readDM (s.r.r1.toNat + k)) (s.readDM (s.r.r2.toNat + k))
      else fadd (s.readDM (s.r.r1.toNat + (s.fftN.toNat - k))) (fneg (s.readDM (s.r.r2.toNat + (s.fftN.toNat - k))))) ∧
    t = { s with dm := t.dm } ∧
    ∀ a, t.readDM a =
      overlay s.r.r0.toNat
        ((List.range s.fftN.toNat).map fun i => fdiv (fadd (at0 g.wr i) (at0 g.wi i)) (fofNat s.fftN.toNat)) s.readDM a

/-- 40_transform.md R221, 70_reset_and_hazards.md R716: two states that differ only in data memory outside bins `0` to `N/2` of
the spectrum blocks give the same signal under `FFT.INV`: the upper bins are ignored whatever they hold. -/
def Obligations.fft_inverse_ignores_upper_bins : Prop :=
  ∀ (s : State) (m : Memory), Instr.fftInv.fault? s = none →
    (∀ k, k ≤ s.fftN.toNat / 2 → ({ s with dm := m } : State).readDM (s.r.r1.toNat + k) = s.readDM (s.r.r1.toNat + k) ∧
      ({ s with dm := m } : State).readDM (s.r.r2.toNat + k) = s.readDM (s.r.r2.toNat + k)) →
    ∃ t u : State, exec .fftInv s = .next t ∧ exec .fftInv { s with dm := m } = .next u ∧
      ∀ i, i < s.fftN.toNat → u.readDM (s.r.r0.toNat + i) = t.readDM (s.r.r0.toNat + i)

/-- 40_transform.md R214, 00_scope.md R19: after the bit reversal over `2^p` points position `i` holds the packed point whose
index was `bitrev(i, p)`, in both arrays; the positions beyond are as before. Bit `j` of `bitrev(i, b)` is bit `b - 1 - j` of
`i`, and the result has `b` bits. -/
def Obligations.bit_reversal_permutes : Prop :=
  (∀ i b : Nat, i < 2 ^ b → bitrev i b < 2 ^ b ∧ ∀ j, j < b → (bitrev i b).testBit j = i.testBit (b - 1 - j)) ∧
  ∀ (p : Nat) (w : Work) (i : Nat), 2 ^ p ≤ w.wr.length → 2 ^ p ≤ w.wi.length →
    at0 (bitReverse (2 ^ p) w).wr i = at0 w.wr (if i < 2 ^ p then bitrev i p else i) ∧
    at0 (bitReverse (2 ^ p) w).wi i = at0 w.wi (if i < 2 ^ p then bitrev i p else i)

/-- 40_transform.md R212: one butterfly pass combines the pairs `(i, i + h)` of the first `2·h·c` positions with the running
twiddle `u j` of index `j = i mod 2h`, which starts at 1 and is advanced by the ROM's step; the positions beyond are as
before. -/
def Obligations.butterfly_pass : Prop :=
  ∀ (h c : Nat) (w : Work), 2 * h * c ≤ w.wr.length → 2 * h * c ≤ w.wi.length → ∃ u : Nat → F × F,
    u 0 = (0x3FF0000000000000#64, 0#64) ∧
    (∀ j, u (j + 1) = (fsub (fmul (u j).1 (twC h)) (fmul (u j).2 (fneg (twS h))),
      fadd (fmul (u j).1 (fneg (twS h))) (fmul (u j).2 (twC h)))) ∧
    (∀ j k, j < h → k < c → ∀ i, i = j + 2 * h * k → ∀ tr ti,
      tr = fsub (fmul (at0 w.wr (i + h)) (u j).1) (fmul (at0 w.wi (i + h)) (u j).2) →
      ti = fadd (fmul (at0 w.wr (i + h)) (u j).2) (fmul (at0 w.wi (i + h)) (u j).1) →
      at0 (bflyPass w h (2 * h * c)).wr i = fadd (at0 w.wr i) tr ∧
      at0 (bflyPass w h (2 * h * c)).wi i = fadd (at0 w.wi i) ti ∧
      at0 (bflyPass w h (2 * h * c)).wr (i + h) = fsub (at0 w.wr i) tr ∧
      at0 (bflyPass w h (2 * h * c)).wi (i + h) = fsub (at0 w.wi i) ti) ∧
    (∀ i, 2 * h * c ≤ i → at0 (bflyPass w h (2 * h * c)).wr i = at0 w.wr i ∧
      at0 (bflyPass w h (2 * h * c)).wi i = at0 w.wi i)

/-- 40_transform.md R216: what the unpack leaves at each of the `4·q` positions, in terms of the values before it. -/
def Obligations.unpack_splits_the_spectrum : Prop :=
  ∀ (q : Nat) (w : Work), 1 ≤ q → w.wr.length = 4 * q → w.wi.length = 4 * q →
    (∀ i, 1 ≤ i → i < q →
      at0 (unpack (2 * q) q w).wr i = fdiv (fadd (at0 w.wr i) (at0 w.wr (2 * q - i))) 0x4000000000000000#64 ∧
      at0 (unpack (2 * q) q w).wr (2 * q - i) = fdiv (fadd (at0 w.wr i) (at0 w.wr (2 * q - i))) 0x4000000000000000#64 ∧
      at0 (unpack (2 * q) q w).wi i = fdiv (fsub (at0 w.wi i) (at0 w.wi (2 * q - i))) 0x4000000000000000#64 ∧
      at0 (unpack (2 * q) q w).wi (2 * q - i) =
        fneg (fdiv (fsub (at0 w.wi i) (at0 w.wi (2 * q - i))) 0x4000000000000000#64) ∧
      at0 (unpack (2 * q) q w).wr (2 * q + i) = fdiv (fadd (at0 w.wi i) (at0 w.wi (2 * q - i))) 0x4000000000000000#64 ∧
      at0 (unpack (2 * q) q w).wr (4 * q - i) = fdiv (fadd (at0 w.wi i) (at0 w.wi (2 * q - i))) 0x4000000000000000#64 ∧
      at0 (unpack (2 * q) q w).wi (2 * q + i) =
        fneg (fdiv (fsub (at0 w.wr i) (at0 w.wr (2 * q - i))) 0x4000000000000000#64) ∧
      at0 (unpack (2 * q) q w).wi (4 * q - i) =
        fneg (fneg (fdiv (fsub (at0 w.wr i) (at0 w.wr (2 * q - i))) 0x4000000000000000#64))) ∧
    at0 (unpack (2 * q) q w).wr 0 = at0 w.wr 0 ∧ at0 (unpack (2 * q) q w).wr q = at0 w.wr q ∧
    at0 (unpack (2 * q) q w).wr (2 * q) = at0 w.wi 0 ∧ at0 (unpack (2 * q) q w).wr (3 * q) = at0 w.wi q ∧
    at0 (unpack (2 * q) q w).wi 0 = 0#64 ∧ at0 (unpack (2 * q) q w).wi q = 0#64 ∧
    at0 (unpack (2 * q) q w).wi (2 * q) = 0#64 ∧ at0 (unpack (2 * q) q w).wi (3 * q) = 0#64

/-! ### WIN -/

/-- 41_window.md R241 to R246: each `WIN.SET.*` sets the type and length, computes the `L` coefficients of its formula, keeps
the entries beyond, and changes nothing else. -/
def Obligations.window_selection : Prop :=
  ∀ s : State, ∀ c ∈ ([
      (.winSetRect, 0#32, fun _ => 0x3FF0000000000000#64),
      (.winSetHann, 1#32, fun i => fsub 0x3FE0000000000000#64 (fmul 0x3FE0000000000000#64
        (ncos s.params (fdiv (fmul 0x401921FB54442D18#64 (fofNat i)) (fofNat (s.r.r2.toNat - 1)))))),
      (.winSetHamm, 2#32, fun i => fsub 0x3FE147AE147AE148#64 (fmul 0x3FDD70A3D70A3D71#64
        (ncos s.params (fdiv (fmul 0x401921FB54442D18#64 (fofNat i)) (fofNat (s.r.r2.toNat - 1)))))),
      (.winSetBlack, 3#32, fun i => fadd (fsub 0x3FDB4D4024B33DB0#64 (fmul 0x3FDFC7A398201CD6#64
          (ncos s.params (fdiv (fmul 0x401921FB54442D18#64 (fofNat i)) (fofNat (s.r.r2.toNat - 1))))))
        (fmul 0x3FB3AC6045BAF534#64
          (ncos s.params (fdiv (fmul 0x402921FB54442D18#64 (fofNat i)) (fofNat (s.r.r2.toNat - 1))))))] :
      List (Instr × U32 × (Nat → F))),
    c.1.fault? s = none → ∃ t, exec c.1 s = .next t ∧
      t = { s with win := { kind := c.2.1, len := s.r.r2, coef := t.win.coef } } ∧
      ∀ i, t.winCoef i = if i < s.r.r2.toNat then c.2.2 i else s.winCoef i

/-- 41_window.md R247: `WIN.PROC` writes the input block times the coefficients, element by element, and changes nothing
else; the input is read whole before the output is written (20_memory.md R110). -/
def Obligations.window_application : Prop :=
  ∀ s : State, Instr.winProc.fault? s = none → ∃ t, exec .winProc s = .next t ∧ t = { s with dm := t.dm } ∧
    ∀ a, t.readDM a =
      overlay s.r.r1.toNat ((List.range s.win.len.toNat).map fun i => fmul (s.inputSample i) (s.winCoef i)) s.readDM a

/-! ### DL -/

/-- 42_delay_line.md R261, R262, 00_scope.md R19: `DL.INIT` takes as buffer length the least power of two whose F value is not
below `(maxms * fs) / 1000.0`, zeroes that many slots, puts the write cursor at 0 and sets the clamped delay, and changes
nothing else. That the slots at and beyond the new length keep what they held is the model's choice (log 9); that the length
fits its register is log 1. -/
def Obligations.delay_line_construction : Prop :=
  ∀ s : State, Instr.dlInit.fault? s = none → s.params.wf = true → s.params.fits = true → ∃ (t : State) (p : Nat) (d sd : F),
    exec .dlInit s = .next t ∧
    fle (fdiv (fmul s.f.f1 s.f.f0) (fofNat 1000)) (fofNat (2 ^ p)) = true ∧
    (∀ k, fle (fdiv (fmul s.f.f1 s.f.f0) (fofNat 1000)) (fofNat (2 ^ k)) = true → p ≤ k) ∧
    d = (if flt s.f.f2 fzero then fzero else if flt s.f.f1 s.f.f2 then s.f.f1 else s.f.f2) ∧
    sd = fdiv (fmul d s.f.f0) (fofNat 1000) ∧
    t = { s with dl := ⟨s.f.f0, s.f.f1, d, t.dl.len, 0#32, t.dl.rd, fsub sd (fofInt (ffloor sd)), t.dl.buf⟩ } ∧
    t.dl.len.toNat = 2 ^ p ∧ (t.dl.rd.toNat : Int) = (((2 ^ p : Nat) : Int) - ffloor sd) % ((2 ^ p : Nat) : Int) ∧
    ∀ i, Memory.get (t.free .dlBuf) t.dl.buf i = if i < 2 ^ p then 0#64 else Memory.get (s.free .dlBuf) s.dl.buf i

/-- 42_delay_line.md R263, R264, R268: `DL.SETDELAY` clamps the delay, keeps its fraction and moves the read cursor;
`DL.CLEAR` zeroes the buffer's `DL_LEN` slots and keeps every register; that the slots beyond keep what they held is the
model's choice (log 9). -/
def Obligations.delay_setting_and_clearing : Prop :=
  ∀ s : State,
    (Instr.dlSetdelay.fault? s = none → ∃ (t : State) (d sd : F), exec .dlSetdelay s = .next t ∧
      d = (if flt s.f.f2 fzero then fzero else if flt s.dl.maxms s.f.f2 then s.dl.maxms else s.f.f2) ∧
      sd = fdiv (fmul d s.dl.fs) (fofNat 1000) ∧
      t = { s with dl := { s.dl with ms := d, rd := t.dl.rd, frac := fsub sd (fofInt (ffloor sd)) } } ∧
      (t.dl.rd.toNat : Int) = ((s.dl.wr.toNat : Int) + s.dl.len.toNat - ffloor sd) % (s.dl.len.toNat : Int)) ∧
    (Instr.dlClear.fault? s = none → ∃ t, exec .dlClear s = .next t ∧ t = { s with dl := { s.dl with buf := t.dl.buf } } ∧
      ∀ i, Memory.get (t.free .dlBuf) t.dl.buf i =
        if i < s.dl.len.toNat then 0#64 else Memory.get (s.free .dlBuf) s.dl.buf i)

/-- 42_delay_line.md R265, R266, R267: sample `i` of `DL.PROC` is `s0 + DL_FRAC * (s1 - s0)`, where `s0` and `s1` are the slots
at the read position and at its neighbour after input `i` has been written; the cursors advance by the block's length modulo
`DL_LEN`, and nothing else changes. -/
def Obligations.delay_line_processing : Prop :=
  ∀ s : State, Instr.dlProc.fault? s = none → s.Inv → ∃ t, exec .dlProc s = .next t ∧
    t = { s with dm := t.dm, dl := { s.dl with
      wr := BitVec.ofNat 32 ((s.dl.wr.toNat + s.r.r2.toNat) % s.dl.len.toNat)
      rd := BitVec.ofNat 32 ((s.dl.rd.toNat + s.r.r2.toNat) % s.dl.len.toNat)
      buf := t.dl.buf } } ∧
    (∀ p, Memory.get (t.free .dlBuf) t.dl.buf p =
      if p < s.dl.len.toNat then
        ringAfter s.dl.len.toNat s.dl.wr.toNat s.inputSample (Memory.get (s.free .dlBuf) s.dl.buf) s.r.r2.toNat p
      else Memory.get (s.free .dlBuf) s.dl.buf p) ∧
    ∃ slot : Nat → Nat → F,
      (∀ i p, slot i p =
        ringAfter s.dl.len.toNat s.dl.wr.toNat s.inputSample (Memory.get (s.free .dlBuf) s.dl.buf) (i + 1) p) ∧
      ∀ a, t.readDM a =
        overlay s.r.r1.toNat ((List.range s.r.r2.toNat).map fun i =>
          fadd (slot i ((s.dl.rd.toNat + i) % s.dl.len.toNat))
            (fmul s.dl.frac
              (fsub
                (slot i
                  ((s.dl.rd.toNat + i + (match s.params.dlNeigh with | .next => 1 | .prev => s.dl.len.toNat - 1)) %
                    s.dl.len.toNat))
                (slot i ((s.dl.rd.toNat + i) % s.dl.len.toNat))))) s.readDM a

/-- 42_delay_line.md R269 (a), (b): from a zeroed buffer, with a whole delay of `d` samples below `DL_LEN`, `DL_PROC` puts out
`d` zeros and then the input shifted by `d` (the identity for `d = 0`), as numbers. The inputs are finite and of magnitude at
most `2^1022`, so that no difference of two of them overflows. -/
def Obligations.whole_delay_is_an_exact_shift : Prop :=
  ∀ (s : State) (d : Nat), Instr.dlProc.fault? s = none → s.Inv → d < s.dl.len.toNat →
    s.dl.rd.toNat = (s.dl.wr.toNat + s.dl.len.toNat - d) % s.dl.len.toNat → isZero s.dl.frac = true →
    (∀ p, p < s.dl.len.toNat → Memory.get (s.free .dlBuf) s.dl.buf p = 0#64) →
    (∀ i, i < s.r.r2.toNat → fmag (s.inputSample i) ≤ 0x7FD0000000000000) →
    ∃ t, exec .dlProc s = .next t ∧
      ∀ i, i < s.r.r2.toNat →
        feq (t.readDM (s.r.r1.toNat + i)) (if i < d then 0#64 else s.inputSample (i - d)) = true

/-! ### SP -/

/-- 43_iir_filters.md R301, R302, R304, R330, R332: the designs and the resets of the single pole and of the state-variable
filter. A design keeps the filter's state registers, a reset its coefficients, and nothing else changes. -/
def Obligations.filter_designs_and_resets : Prop :=
  [Instr.spDesignLp, .spDesignHp, .spReset, .svfDesign, .svfReset].map encode =
    [0x40000000#32, 0x40010000#32, 0x42000000#32, 0x60000000#32, 0x62000000#32] ∧
  ∀ (s : State) (b1 a0 : F), b1 = nexp s.params (fneg (fdiv (fmul 0x401921FB54442D18#64 s.f.f1) s.f.f0)) →
    a0 = fdiv (fadd 0x3FF0000000000000#64 b1) 0x4000000000000000#64 →
    exec .spDesignLp s = .next { s with sp := ⟨fsub 0x3FF0000000000000#64 b1, 0#64, b1, s.sp.x1, s.sp.y1⟩ } ∧
    exec .spDesignHp s = .next { s with sp := ⟨a0, fneg a0, b1, s.sp.x1, s.sp.y1⟩ } ∧
    exec .spReset s = .next { s with sp := ⟨s.sp.a0, s.sp.a1, s.sp.b1, 0#64, 0#64⟩ } ∧
    exec .svfDesign s = .next { s with
      svf := ⟨fmul 0x4000000000000000#64 (nsin s.params (fdiv (fmul 0x400921FB54442D18#64 s.f.f1) s.f.f0)),
        fdiv 0x3FF0000000000000#64 s.f.f2, s.svf.x1, s.svf.x2⟩ } ∧
    exec .svfReset s = .next { s with svf := ⟨s.svf.f, s.svf.q, 0#64, 0#64⟩ }

/-- 43_iir_filters.md R303: `SP.PROC` runs `y = (a0·x + a1·x1) + b1·y1` over the block, and changes `SP_X1`, `SP_Y1` and the
output block only. -/
def Obligations.single_pole_processing : Prop :=
  ∀ s : State, Instr.spProc.fault? s = none → ∃ (t : State) (y : Nat → F), exec .spProc s = .next t ∧
    (∀ i, y i = fadd (fadd (fmul s.sp.a0 (s.inputSample i)) (fmul s.sp.a1 (lag1 s.sp.x1 s.inputSample i)))
      (fmul s.sp.b1 (lag1 s.sp.y1 y i))) ∧
    t = { s with dm := t.dm, sp := { s.sp with
      x1 := lag1 s.sp.x1 s.inputSample s.r.r2.toNat, y1 := lag1 s.sp.y1 y s.r.r2.toNat } } ∧
    ∀ a, t.readDM a = overlay s.r.r1.toNat ((List.range s.r.r2.toNat).map y) s.readDM a

/-! ### BQ -/

/-- 43_iir_filters.md R311, R313 to R322: the eight design modes. Each stores in section `k` the five quotients of its
formulas, keeps the section's state registers, and changes no other section and nothing else. -/
def Obligations.biquad_designs : Prop :=
  ∀ (s : State) (k : Nat) (w0 cw sw al g sq one two m2 : F), k < s.params.nbq → s.Inv →
    one = 0x3FF0000000000000#64 → two = 0x4000000000000000#64 → m2 = 0xC000000000000000#64 →
    w0 = fdiv (fmul 0x401921FB54442D18#64 s.f.f1) s.f.f0 → cw = ncos s.params w0 → sw = nsin s.params w0 →
    al = fdiv sw (fmul two s.f.f2) → g = npow10 s.params (fdiv s.f.f3 (fofNat 40)) →
    sq = fmul (fmul two (fsqrt g)) al →
    ∀ c ∈ ([
      (.bqDesignLp k, ⟨fadd one al, fmul m2 cw, fsub one al,
        fdiv (fsub one cw) two, fsub one cw, fdiv (fsub one cw) two⟩),
      (.bqDesignHp k, ⟨fadd one al, fmul m2 cw, fsub one al,
        fdiv (fadd one cw) two, fneg (fadd one cw), fdiv (fadd one cw) two⟩),
      (.bqDesignBp k, ⟨fadd one al, fmul m2 cw, fsub one al,
        (match s.params.bpVariant with | .peak0dB => al | .skirt => fdiv sw two), 0#64,
        (match s.params.bpVariant with | .peak0dB => fneg al | .skirt => fneg (fdiv sw two))⟩),
      (.bqDesignAp k, ⟨fadd one al, fmul m2 cw, fsub one al, fsub one al, fmul m2 cw, fadd one al⟩),
      (.bqDesignNotch k, ⟨fadd one al, fmul m2 cw, fsub one al, one, fmul m2 cw, one⟩),
      (.bqDesignPeak k, ⟨fadd one (fdiv al g), fmul m2 cw, fsub one (fdiv al g),
        fadd one (fmul al g), fmul m2 cw, fsub one (fmul al g)⟩),
      (.bqDesignLs k, ⟨fadd (fadd (fadd g one) (fmul (fsub g one) cw)) sq,
        fmul m2 (fadd (fsub g one) (fmul (fadd g one) cw)),
        fsub (fadd (fadd g one) (fmul (fsub g one) cw)) sq,
        fmul g (fadd (fsub (fadd g one) (fmul (fsub g one) cw)) sq),
        fmul (fmul two g) (fsub (fsub g one) (fmul (fadd g one) cw)),
        fmul g (fsub (fsub (fadd g one) (fmul (fsub g one) cw)) sq)⟩),
      (.bqDesignHs k, ⟨fadd (fsub (fadd g one) (fmul (fsub g one) cw)) sq,
        fmul two (fsub (fsub g one) (fmul (fadd g one) cw)),
        fsub (fsub (fadd g one) (fmul (fsub g one) cw)) sq,
        fmul g (fadd (fadd (fadd g one) (fmul (fsub g one) cw)) sq),
        fmul (fmul m2 g) (fadd (fsub g one) (fmul (fadd g one) cw)),
        fmul g (fsub (fadd (fadd g one) (fmul (fsub g one) cw)) sq)⟩)] : List (Instr × BqRaw)),
    ∃ t, exec c.1 s = .next t ∧ t = { s with bq := t.bq } ∧
      ∀ j, t.section j = if j = k then { s.section k with
          b0 := fdiv c.2.b0 c.2.a0, b1 := fdiv c.2.b1 c.2.a0, b2 := fdiv c.2.b2 c.2.a0,
          a1 := fdiv c.2.a1 c.2.a0, a2 := fdiv c.2.a2 c.2.a0 }
        else s.section j

/-- 43_iir_filters.md R312, R313, R324: `BQ.CUSTOM` stores the quotients of `f1` to `f5` by `f0`; `BQ.RESET` zeroes the four
state registers; both change one section only. -/
def Obligations.biquad_custom_and_reset : Prop :=
  ∀ (s : State) (k : Nat), k < s.params.nbq → s.Inv →
    (∃ t, exec (.bqCustom k) s = .next t ∧ t = { s with bq := t.bq } ∧
      ∀ j, t.section j = if j = k then { s.section k with
          b0 := fdiv s.f.f3 s.f.f0, b1 := fdiv s.f.f4 s.f.f0, b2 := fdiv s.f.f5 s.f.f0,
          a1 := fdiv s.f.f1 s.f.f0, a2 := fdiv s.f.f2 s.f.f0 }
        else s.section j) ∧
    (∃ t, exec (.bqReset k) s = .next t ∧ t = { s with bq := t.bq } ∧
      ∀ j, t.section j = if j = k then { s.section k with x1 := 0#64, x2 := 0#64, y1 := 0#64, y2 := 0#64 }
        else s.section j)

/-- 43_iir_filters.md R323, R325: `BQ.PROC` runs direct form I over the block on one section, and changes that section's state
registers and the output block only. -/
def Obligations.biquad_processing : Prop :=
  ∀ (s : State) (k : Nat) (b : Biquad), (Instr.bqProc k).fault? s = none → s.Inv → b = s.section k →
    ∃ (t : State) (y : Nat → F), exec (.bqProc k) s = .next t ∧
      (∀ i, y i = fsub (fsub (fadd (fadd (fmul b.b0 (s.inputSample i)) (fmul b.b1 (lag1 b.x1 s.inputSample i)))
        (fmul b.b2 (lag2 b.x1 b.x2 s.inputSample i))) (fmul b.a1 (lag1 b.y1 y i))) (fmul b.a2 (lag2 b.y1 b.y2 y i))) ∧
      t = { s with dm := t.dm, bq := t.bq } ∧
      (∀ j, t.section j = if j = k then { b with
          x1 := lag1 b.x1 s.inputSample s.r.r2.toNat, x2 := lag2 b.x1 b.x2 s.inputSample s.r.r2.toNat,
          y1 := lag1 b.y1 y s.r.r2.toNat, y2 := lag2 b.y1 b.y2 y s.r.r2.toNat }
        else s.section j) ∧
      ∀ a, t.readDM a = overlay s.r.r1.toNat ((List.range s.r.r2.toNat).map y) s.readDM a

/-- 43_iir_filters.md R320, R321, R322: with gain `±0.0` the peak and both shelves store `B0 = 1.0`, `B1 == A1` and
`B2 == A2`, whenever `cw` and `al` are finite and the divisor `a0` (`1 + al` for the peak, `2 + 2·al` for the shelves) is
finite and not zero. -/
def Obligations.zero_gain_is_flat : Prop :=
  ∀ (s : State) (k : Nat) (v : BqPre), k < s.params.nbq → s.Inv → isZero s.f.f3 = true →
    v = bqPre s.params s.f.f0 s.f.f1 s.f.f2 s.f.f3 → isfinite v.cw = true → isfinite v.al = true →
    ∀ c ∈ [(Instr.bqDesignPeak k, fadd 0x3FF0000000000000#64 v.al),
        (Instr.bqDesignLs k, fadd 0x4000000000000000#64 (fmul 0x4000000000000000#64 v.al)),
        (Instr.bqDesignHs k, fadd 0x4000000000000000#64 (fmul 0x4000000000000000#64 v.al))],
      isfinite c.2 = true → isZero c.2 = false →
      ∃ t, exec c.1 s = .next t ∧ (t.section k).b0 = 0x3FF0000000000000#64 ∧
        feq (t.section k).b1 (t.section k).a1 = true ∧ feq (t.section k).b2 (t.section k).a2 = true

/-! ### SVF -/

/-- 43_iir_filters.md R331, 20_memory.md R111: the four outputs of `SVF.PROC`, all from the state before the sample's update,
written in the order HP, BP, LP, BR where the mask enables them; the state advances whatever the mask. -/
def Obligations.state_variable_processing : Prop :=
  ∀ (s : State) (m : Nat), (Instr.svfProc m).fault? s = none → ∃ (t : State) (hp bp lp br : Nat → F),
    exec (.svfProc m) s = .next t ∧
    (∀ i, hp i = fsub (fsub (s.inputSample i) (fmul s.svf.q (lag1 s.svf.x1 bp i))) (lag1 s.svf.x2 lp i)) ∧
    (∀ i, bp i = fadd (fmul (hp i) s.svf.f) (lag1 s.svf.x1 bp i)) ∧
    (∀ i, lp i = fadd (fmul (lag1 s.svf.x1 bp i) s.svf.f) (lag1 s.svf.x2 lp i)) ∧
    (∀ i, br i = fadd (hp i) (lp i)) ∧
    t = { s with dm := t.dm, svf := { s.svf with
      x1 := lag1 s.svf.x1 bp s.r.r2.toNat, x2 := lag1 s.svf.x2 lp s.r.r2.toNat } } ∧
    ∀ a, t.readDM a =
      (if m.testBit 3 then overlay s.r.r5.toNat ((List.range s.r.r2.toNat).map br) else id)
        ((if m.testBit 2 then overlay s.r.r4.toNat ((List.range s.r.r2.toNat).map lp) else id)
          ((if m.testBit 1 then overlay s.r.r3.toNat ((List.range s.r.r2.toNat).map bp) else id)
            ((if m.testBit 0 then overlay s.r.r1.toNat ((List.range s.r.r2.toNat).map hp) else id) s.readDM))) a

/-- 10_state.md R70, 43_iir_filters.md R303, R325, R331: with the reset coefficients and zero state, SP, a biquad section and
SVF's high-pass and band-reject outputs put out finite inputs unchanged, as numbers, and SVF's band-pass and low-pass outputs
are zero. -/
def Obligations.reset_filters_pass_finite_input : Prop :=
  ∀ s : State, (∀ i, i < s.r.r2.toNat → isfinite (s.inputSample i) = true) →
    (Instr.spProc.fault? s = none → s.sp = ⟨0x3FF0000000000000#64, 0#64, 0#64, 0#64, 0#64⟩ →
      ∃ t, exec .spProc s = .next t ∧
        ∀ i, i < s.r.r2.toNat → feq (t.readDM (s.r.r1.toNat + i)) (s.inputSample i) = true) ∧
    (∀ k, (Instr.bqProc k).fault? s = none →
      s.section k = ⟨0x3FF0000000000000#64, 0#64, 0#64, 0#64, 0#64, 0#64, 0#64, 0#64, 0#64⟩ →
      ∃ t, exec (.bqProc k) s = .next t ∧
        ∀ i, i < s.r.r2.toNat → feq (t.readDM (s.r.r1.toNat + i)) (s.inputSample i) = true) ∧
    (∀ (m : Nat) (a : U32), (m, a) ∈ [(1, s.r.r1), (8, s.r.r5)] → (Instr.svfProc m).fault? s = none →
      s.svf = ⟨0#64, 0#64, 0#64, 0#64⟩ →
      ∃ t, exec (.svfProc m) s = .next t ∧
        ∀ i, i < s.r.r2.toNat → feq (t.readDM (a.toNat + i)) (s.inputSample i) = true) ∧
    (∀ (m : Nat) (a : U32), (m, a) ∈ [(2, s.r.r3), (4, s.r.r4)] → (Instr.svfProc m).fault? s = none →
      s.svf = ⟨0#64, 0#64, 0#64, 0#64⟩ →
      ∃ t, exec (.svfProc m) s = .next t ∧
        ∀ i, i < s.r.r2.toNat → feq (t.readDM (a.toNat + i)) 0#64 = true)

/-! ### CB -/

/-- 44_comb.md R361, R367: `CB.INIT` constructs the delay line that `DL.INIT` would with the delay `+0.0`, and makes the comb
feedforward with gain 0; `CB.RESET` zeroes `CB_X1`, `CB_Y1` and does what `DL.CLEAR` does. -/
def Obligations.comb_construction_and_reset : Prop :=
  ∀ s : State,
    (Instr.cbInit.fault? s = none → ∃ t u : State, exec .cbInit s = .next t ∧
      exec .dlInit { s with f := { s.f with f2 := 0#64 } } = .next u ∧ u.halt = s.halt ∧
      t = { s with dl := u.dl, cb := { mode := 1#32, gain := 0#64, x1 := 0#64, y1 := 0#64 } }) ∧
    (Instr.cbReset.fault? s = none → ∃ t u : State, exec .cbReset s = .next t ∧ exec .dlClear s = .next u ∧
      u.halt = s.halt ∧ t = { s with dl := u.dl, cb := { s.cb with x1 := 0#64, y1 := 0#64 } })

/-- 44_comb.md R362 to R365: each design sets the mode and the gain and sets the delay as `DL.SETDELAY` would, to `f2` for
feedforward and allpass and to the delay reduced by one sample for feedback, which is never a NaN. -/
def Obligations.comb_designs : Prop :=
  ∀ s : State, s.Inv → ∀ c ∈ [(Instr.cbDesignFb, 0#32,
        fdiv (fmul (fsub (fdiv (fmul s.f.f2 s.dl.fs) (fofNat 1000)) 0x3FF0000000000000#64) (fofNat 1000)) s.dl.fs),
      (Instr.cbDesignFf, 1#32, s.f.f2), (Instr.cbDesignAp, 2#32, s.f.f2)],
    c.1.fault? s = none → isNaN c.2.2 = false ∧ ∃ t u : State, exec c.1 s = .next t ∧
      exec .dlSetdelay { s with f := { s.f with f2 := c.2.2 } } = .next u ∧ u.halt = s.halt ∧
      t = { s with dl := u.dl, cb := { s.cb with mode := c.2.1, gain := s.f.f3 } }

/-- 44_comb.md R366: the three modes of `CB.PROC`. The delay line is fed the previous output (feedback) or the input
(feedforward) and is left alone by the allpass; the last input and output are kept in every mode; nothing else changes. -/
def Obligations.comb_processing : Prop :=
  ∀ s : State, Instr.cbProc.fault? s = none → ∃ (t : State) (y d : Nat → F), exec .cbProc s = .next t ∧
    t = { s with dm := t.dm, dl := t.dl, cb := { s.cb with
      x1 := lag1 s.cb.x1 s.inputSample s.r.r2.toNat, y1 := lag1 s.cb.y1 y s.r.r2.toNat } } ∧
    (∀ a, t.readDM a = overlay s.r.r1.toNat ((List.range s.r.r2.toNat).map y) s.readDM a) ∧
    (s.cb.mode = 0#32 →
      runBlock s.dlSample s.dl ((List.range s.r.r2.toNat).map (lag1 s.cb.y1 y)) = (t.dl, (List.range s.r.r2.toNat).map d) ∧
      ∀ i, i < s.r.r2.toNat → y i = fadd (s.inputSample i) (fmul s.cb.gain (d i))) ∧
    (s.cb.mode = 1#32 →
      runBlock s.dlSample s.dl ((List.range s.r.r2.toNat).map s.inputSample) = (t.dl, (List.range s.r.r2.toNat).map d) ∧
      ∀ i, i < s.r.r2.toNat → y i = fadd (s.inputSample i) (fmul s.cb.gain (d i))) ∧
    (s.cb.mode ≠ 0#32 → s.cb.mode ≠ 1#32 →
      t.dl = s.dl ∧
      ∀ i, i < s.r.r2.toNat → y i = fadd (fsub (fmul s.cb.gain (s.inputSample i)) (fmul s.cb.gain (lag1 s.cb.y1 y i)))
        (lag1 s.cb.x1 s.inputSample i))

/-! ### CV and FC -/

/-- 45_convolution.md R402, R404, R414: `CV.INIT` copies the response and zeroes the tail; `CV.RESET` and `FC.RESET` zero the
unit's tail of `M - 1` cells and keep the rest. That the tail's cells at and beyond `M - 1` keep what they held is the model's
choice (log 9). -/
def Obligations.convolution_setup : Prop :=
  ∀ s : State,
    (Instr.cvInit.fault? s = none → ∃ t, exec .cvInit s = .next t ∧
      t = { s with cv := { frame := s.r.r2, irlen := s.r.r3, ir := t.cv.ir, ov := t.cv.ov } } ∧
      (∀ j, j < s.r.r3.toNat → Memory.get (t.free .cvIr) t.cv.ir j = s.inputSample j) ∧
      ∀ n, n < s.r.r3.toNat - 1 → Memory.get (t.free .cvOv) t.cv.ov n = 0#64) ∧
    (Instr.cvReset.fault? s = none → ∃ t, exec .cvReset s = .next t ∧ t = { s with cv := { s.cv with ov := t.cv.ov } } ∧
      ∀ n, Memory.get (t.free .cvOv) t.cv.ov n =
        if n < s.cv.irlen.toNat - 1 then 0#64 else Memory.get (s.free .cvOv) s.cv.ov n) ∧
    (Instr.fcReset.fault? s = none → ∃ t, exec .fcReset s = .next t ∧ t = { s with fc := { s.fc with ov := t.fc.ov } } ∧
      ∀ n, Memory.get (t.free .fcOv) t.fc.ov n =
        if n < s.fc.irlen.toNat - 1 then 0#64 else Memory.get (s.free .fcOv) s.fc.ov n)

/-- 45_convolution.md R401, R403: `CV.PROC` adds the products of each output index in ascending input index from `+0.0`, then
the carried tail; it puts out the first `B` sums and carries the other `M - 1`, whether the tail is shorter or longer than
the frame. -/
def Obligations.direct_convolution : Prop :=
  ∀ (s : State) (b m : Nat), Instr.cvProc.fault? s = none → b = s.cv.frame.toNat → m = s.cv.irlen.toNat → 1 ≤ m →
    ∃ (t : State) (acc : Nat → Nat → F) (sum : Nat → F), exec .cvProc s = .next t ∧
      (∀ n, acc n 0 = 0#64) ∧
      (∀ n i, acc n (i + 1) =
        if i ≤ n ∧ n - i < m then
          fadd (acc n i) (fmul (s.inputSample i) (Memory.get (s.free .cvIr) s.cv.ir (n - i)))
        else acc n i) ∧
      (∀ n, sum n = if n < m - 1 then fadd (acc n b) (Memory.get (s.free .cvOv) s.cv.ov n) else acc n b) ∧
      t = { s with dm := t.dm, cv := { s.cv with ov := t.cv.ov } } ∧
      (∀ n, Memory.get (t.free .cvOv) t.cv.ov n =
        if n < m - 1 then sum (b + n) else Memory.get (s.free .cvOv) s.cv.ov n) ∧
      ∀ a, t.readDM a = overlay s.r.r1.toNat ((List.range b).map sum) s.readDM a

/-- 45_convolution.md R411, R412: `FC.INIT` takes the least power of two not below `B + M - 1` and not below 4 as its transform
size, stores the spectrum of the zero-padded response and zeroes the tail; that the size fits its register is log 1. -/
def Obligations.fast_convolution_construction : Prop :=
  ∀ s : State, Instr.fcInit.fault? s = none → s.params.wf = true → s.params.fits = true → ∃ (t : State) (p : Nat) (g : Work),
    exec .fcInit s = .next t ∧ 2 ≤ p ∧ s.r.r2.toNat + s.r.r3.toNat - 1 ≤ 2 ^ p ∧
    (∀ k, 2 ≤ k → s.r.r2.toNat + s.r.r3.toNat - 1 ≤ 2 ^ k → p ≤ k) ∧
    g = fftFwd (2 ^ p) ((List.range (2 ^ p)).map fun i => if i < s.r.r3.toNat then s.inputSample i else 0#64) ∧
    t = { s with fc := { frame := s.r.r2, irlen := s.r.r3, n := t.fc.n, hr := t.fc.hr, hi := t.fc.hi, ov := t.fc.ov } } ∧
    t.fc.n.toNat = 2 ^ p ∧
    (∀ k, k < 2 ^ p → Memory.get (t.free .fcHr) t.fc.hr k = at0 g.wr k ∧ Memory.get (t.free .fcHi) t.fc.hi k = at0 g.wi k) ∧
    ∀ n, n < s.r.r3.toNat - 1 → Memory.get (t.free .fcOv) t.fc.ov n = 0#64

/-- 45_convolution.md R401, R413: `FC.PROC` multiplies the frame's spectrum by the response's in bins `0` to `N/2`, inverts, adds
the carried tail, puts out the first `B` values and carries the next `M - 1`. -/
def Obligations.fast_convolution : Prop :=
  ∀ (s : State) (b m n : Nat) (x : Work) (hr hi : Nat → F), Instr.fcProc.fault? s = none → s.Inv →
    b = s.fc.frame.toNat → m = s.fc.irlen.toNat → n = s.fc.n.toNat →
    x = fftFwd n ((List.range n).map fun i => if i < b then s.inputSample i else 0#64) →
    hr = Memory.get (s.free .fcHr) s.fc.hr → hi = Memory.get (s.free .fcHi) s.fc.hi →
    ∃ (t : State) (v : List F) (sum : Nat → F), exec .fcProc s = .next t ∧
      v = fftInv n
        ((List.range (n / 2 + 1)).map fun k => fsub (fmul (at0 x.wr k) (hr k)) (fmul (at0 x.wi k) (hi k)))
        ((List.range (n / 2 + 1)).map fun k => fadd (fmul (at0 x.wr k) (hi k)) (fmul (at0 x.wi k) (hr k))) ∧
      (∀ i, sum i = if i < m - 1 then fadd (at0 v i) (Memory.get (s.free .fcOv) s.fc.ov i) else at0 v i) ∧
      t = { s with dm := t.dm, fc := { s.fc with ov := t.fc.ov } } ∧
      (∀ i, Memory.get (t.free .fcOv) t.fc.ov i =
        if i < m - 1 then sum (b + i) else Memory.get (s.free .fcOv) s.fc.ov i) ∧
      ∀ a, t.readDM a = overlay s.r.r1.toNat ((List.range b).map sum) s.readDM a

/-! ### WS and CU -/

/-- 46_kernel_design.md R442 to R450: each `WS.DESIGN.*` writes a kernel of the odd length `L` to `DM[r1..]` and `L` to `r7`,
and changes nothing else. `lp fc` is the low-pass kernel of cut-off `fc`: the windowed sinc taps divided by their sum; the
high pass is its spectral inversion, the band reject the sum of a low pass and a high pass, the band pass that one's
inversion. -/
def Obligations.windowed_sinc_kernels : Prop :=
  ∀ (s : State) (l : Nat) (tap lp hp br : F → Nat → F) (sum : F → Nat → F),
    l = (if (fceil (fdiv (fmul (fofNat 4) s.f.f0) s.f.f2)).toNat % 2 = 0 then
      (fceil (fdiv (fmul (fofNat 4) s.f.f0) s.f.f2)).toNat + 1 else (fceil (fdiv (fmul (fofNat 4) s.f.f0) s.f.f2)).toNat) →
    (∀ fc i, tap fc i = fmul
      (if i = (l - 1) / 2 then fdiv (fmul 0x401921FB54442D18#64 fc) s.f.f0
        else fdiv (nsin s.params (fmul (fdiv (fmul 0x401921FB54442D18#64 fc) s.f.f0) (fofInt ((i : Int) - ((l - 1) / 2 : Nat)))))
          (fofInt ((i : Int) - ((l - 1) / 2 : Nat)))) (wBlack s.params l i)) →
    (∀ fc, sum fc 0 = 0#64) → (∀ fc i, sum fc (i + 1) = fadd (sum fc i) (tap fc i)) →
    (∀ fc i, lp fc i = fdiv (tap fc i) (sum fc l)) →
    (∀ fc i, hp fc i = if i = (l - 1) / 2 then fadd (fneg (lp fc i)) 0x3FF0000000000000#64 else fneg (lp fc i)) →
    (∀ flo i, br flo i = fadd (lp flo i) (hp s.f.f3 i)) →
    ∀ c ∈ [(Instr.wsDesignLp, lp s.f.f1), (Instr.wsDesignHp, hp s.f.f1), (Instr.wsDesignBr, br s.f.f1),
        (Instr.wsDesignBp, fun i =>
          if i = (l - 1) / 2 then fadd (fneg (br s.f.f1 i)) 0x3FF0000000000000#64 else fneg (br s.f.f1 i))],
      c.1.fault? s = none → ∃ t, exec c.1 s = .next t ∧
        t = { s with dm := t.dm, r := { s.r with r7 := BitVec.ofNat 32 l } } ∧
        ∀ a, t.readDM a = overlay s.r.r1.toNat ((List.range l).map c.2) s.readDM a

/-- 46_kernel_design.md R451 to R454: each `CU.DESIGN.*` inverse-transforms the response (through `pow10(v / 20)` in the dB
mode) with zero imaginary parts, shifts it by `N/2`, windows it, writes the `N` values to `DM[r1..]` and `N` to `r7`, and
changes nothing else (`r7` keeps 32 bits, log 10). -/
def Obligations.custom_response_kernels : Prop :=
  ∀ (s : State) (r n : Nat), r = s.r.r2.toNat → n = 2 * (r - 1) →
    ∀ c ∈ [(Instr.cuDesignLin, fun v => v), (Instr.cuDesignDb, fun v => npow10 s.params (fdiv v (fofNat 20)))],
      c.1.fault? s = none → ∃ (t : State) (raw : List F), exec c.1 s = .next t ∧
        raw = fftInv n ((List.range r).map fun b => c.2 (s.inputSample b)) (List.replicate r 0#64) ∧
        t = { s with dm := t.dm, r := { s.r with r7 := BitVec.ofNat 32 n } } ∧
        ∀ a, t.readDM a =
          overlay s.r.r1.toNat ((List.range n).map fun i => fmul (at0 raw ((i + n / 2) % n)) (wBlack s.params n i)) s.readDM a

/-! ### PEQ -/

/-- 47_parametric_eq.md R481, R484: `PEQ.INIT` raises a band count below 2 to 2, flattens that many sections and keeps the
others; `PEQ.RESET` zeroes the state registers of every band and keeps the coefficients. -/
def Obligations.equaliser_construction_and_reset : Prop :=
  ∀ s : State, s.Inv →
    (Instr.peqInit.fault? s = none → ∃ t, exec .peqInit s = .next t ∧
      t = { s with bq := t.bq, peq := { fs := s.f.f0, nb := t.peq.nb } } ∧ t.peq.nb.toNat = max 2 s.r.r2.toNat ∧
      ∀ j, t.section j = if j < max 2 s.r.r2.toNat then
          ⟨0x3FF0000000000000#64, 0#64, 0#64, 0#64, 0#64, 0#64, 0#64, 0#64, 0#64⟩
        else s.section j) ∧
    (Instr.peqReset.fault? s = none → ∃ t, exec .peqReset s = .next t ∧ t = { s with bq := t.bq } ∧
      ∀ j, t.section j = if j < s.peq.nb.toNat then { s.section j with x1 := 0#64, x2 := 0#64, y1 := 0#64, y2 := 0#64 }
        else s.section j)

/-- 47_parametric_eq.md R482: `PEQ.SETBAND` is `BQ.DESIGN.LS` on band 0, `BQ.DESIGN.HS` on the last band and `BQ.DESIGN.PEAK` on
those between, with `PEQ_FS` in place of `f0`. -/
def Obligations.equaliser_band_design : Prop :=
  ∀ (s : State) (b : Nat), (Instr.peqSetband b).fault? s = none → s.Inv → ∃ t u : State,
    exec (.peqSetband b) s = .next t ∧
    exec (if b = 0 then .bqDesignLs b else if b = s.peq.nb.toNat - 1 then .bqDesignHs b else .bqDesignPeak b)
      { s with f := { s.f with f0 := s.peq.fs } } = .next u ∧
    u.halt = s.halt ∧ t = { s with bq := u.bq }

/-- 47_parametric_eq.md R483: `PEQ.PROC` gives, bit for bit, the outputs and the end state of the commands `BQ.PROC` on
section 0, section 1, ... in turn, the output of each being the input of the next. `u k` is the state after the first `k` of
them. That a NaN has the same bits on both sides is the model's choice (log 3). -/
def Obligations.equaliser_is_a_chain_of_biquads : Prop :=
  ∀ s : State, Instr.peqProc.fault? s = none → s.Inv → ∃ (t : State) (u : Nat → State),
    exec .peqProc s = .next t ∧ u 0 = s ∧
    (∀ k, k < s.peq.nb.toNat →
      exec (.bqProc k) { u k with r := { s.r with r0 := if k = 0 then s.r.r0 else s.r.r1 } } = .next (u (k + 1)) ∧
      (u (k + 1)).halt = s.halt) ∧
    t = { u s.peq.nb.toNat with r := s.r, dm := t.dm } ∧ t.bq.drop s.peq.nb.toNat = s.bq.drop s.peq.nb.toNat ∧
    ∀ a, t.readDM a = (u s.peq.nb.toNat).readDM a

/-! ### Blocks -/

/-- 43_iir_filters.md R300, 42_delay_line.md R267: for every block command with a length operand, two commands of `n1` and `n2`
samples give the same outputs and end state as one of `n1 + n2` samples on the concatenated input, when the first output block
does not run into the second input block (the in-place use `r1 = r0` among the cases allowed). For `SVF.PROC` the same with all
its addresses moved on, when no enabled output block runs from the first command into the second half of the input or of an
output written before it. That a NaN has the same bits on both sides is the model's choice (log 3). -/
def Obligations.splitting_a_block_changes_nothing : Prop :=
  (∀ (i : Instr) (s : State) (n1 n2 : U32),
    (i ∈ [.spProc, .dlProc, .cbProc, .peqProc] ∨ ∃ k, i = .bqProc k) → s.Inv → s.r.r2.toNat = n1.toNat + n2.toNat →
    i.fault? s = none → (s.r.r1.toNat ≤ s.r.r0.toNat ∨ s.r.r0.toNat + s.r.r2.toNat ≤ s.r.r1.toNat) →
    ∃ t t1 t2 : State, exec i s = .next t ∧ exec i { s with r := { s.r with r2 := n1 } } = .next t1 ∧
      exec i { t1 with r := { s.r with r0 := s.r.r0 + n1, r1 := s.r.r1 + n1, r2 := n2 } } = .next t2 ∧
      t1.halt = s.halt ∧ t = { t2 with r := s.r, dm := t.dm } ∧ ∀ a, t.readDM a = t2.readDM a) ∧
  ∀ (m : Nat) (s : State) (n1 n2 : U32), s.Inv → s.r.r2.toNat = n1.toNat + n2.toNat → (Instr.svfProc m).fault? s = none →
    ((s.r.r0 :: s.svfOutputs m).Pairwise fun a b => b.toNat ≤ a.toNat ∨ a.toNat + s.r.r2.toNat ≤ b.toNat) →
    ∃ t t1 t2 : State, exec (.svfProc m) s = .next t ∧ exec (.svfProc m) { s with r := { s.r with r2 := n1 } } = .next t1 ∧
      exec (.svfProc m) { t1 with r := { s.r with
        r0 := s.r.r0 + n1, r1 := s.r.r1 + n1, r2 := n2, r3 := s.r.r3 + n1, r4 := s.r.r4 + n1, r5 := s.r.r5 + n1 } } =
        .next t2 ∧
      t1.halt = s.halt ∧ t = { t2 with r := s.r, dm := t.dm } ∧ ∀ a, t.readDM a = t2.readDM a

end
end

