-- ==== Sys2Proof/Laws/Float.lean ====
section
/-! SUPPORT. What the binary64 operations of Machine/Binary64.lean can do: the parts of a pattern, the order of magnitude
patterns and of their values, and the rounding every operation ends in. -/

namespace Sys2Proof.Machine

/-! ### The parts of a pattern -/

theorem fmag_lt (x : F) : fmag x < 2 ^ 63 := Nat.mod_lt _ (by decide)

theorem fpack_toNat (neg : Bool) {mag : Nat} (h : mag < 2 ^ 63) :
    (fpack neg mag).toNat = (if neg then 2 ^ 63 else 0) + mag := by
  simp only [fpack, BitVec.toNat_ofNat]
  apply Nat.mod_eq_of_lt
  split <;> omega

theorem fmag_fpack (neg : Bool) {mag : Nat} (h : mag < 2 ^ 63) : fmag (fpack neg mag) = mag := by
  rw [fmag, fpack_toNat neg h]
  split <;> omega

theorem fneg?_fpack (neg : Bool) {mag : Nat} (h : mag < 2 ^ 63) : fneg? (fpack neg mag) = neg := by
  rw [fneg?, fpack_toNat neg h]
  cases neg <;> simp
  omega

/-- A pattern is its sign and its magnitude. -/
theorem fpack_parts (x : F) : fpack (fneg? x) (fmag x) = x := by
  apply BitVec.eq_of_toNat_eq
  rw [fpack_toNat _ (fmag_lt x), fneg?, fmag]
  have := x.isLt
  by_cases h : 2 ^ 63 ≤ x.toNat
  · rw [if_pos (by simpa using h)]; omega
  · rw [if_neg (by simpa using h)]; omega

theorem F.ext_parts {x y : F} (hs : fneg? x = fneg? y) (hm : fmag x = fmag y) : x = y := by
  rw [← fpack_parts x, ← fpack_parts y, hs, hm]

/-- Every pattern is a NaN, an infinity or finite, and only one of them. -/
theorem fclass (x : F) :
    (isNaN x = true ∧ isInf x = false ∧ isfinite x = false) ∨ (isNaN x = false ∧ isInf x = true ∧ isfinite x = false) ∨
      (isNaN x = false ∧ isInf x = false ∧ isfinite x = true) := by
  rcases Nat.lt_trichotomy (fmag x) fInfMag with h | h | h
  · exact .inr (.inr ⟨by simp [isNaN]; omega, by simp [isInf]; omega, by simp [isfinite, h]⟩)
  · exact .inr (.inl ⟨by simp [isNaN, h], by simp [isInf, h], by simp [isfinite, h]⟩)
  · exact .inl ⟨by simp [isNaN, h], by simp [isInf]; omega, by simp [isfinite]; omega⟩

theorem isNaN_of_isfinite {x : F} (h : isfinite x = true) : isNaN x = false := by
  rcases fclass x with h' | h' | h' <;> simp_all

theorem isInf_of_isfinite {x : F} (h : isfinite x = true) : isInf x = false := by
  rcases fclass x with h' | h' | h' <;> simp_all

theorem isNaN_nanOf (d : F) : isNaN (nanOf d) = true := by
  have h0 : fmag d % 2 ^ 52 < 2 ^ 52 := Nat.mod_lt _ (by decide)
  have h1 : fInfMag = 0x7FF0000000000000 := rfl
  unfold nanOf
  by_cases h : fmag d % 2 ^ 52 = 0
  · rw [if_pos h, isNaN, fmag_fpack _ (by omega)]
    simp
  · rw [if_neg h, isNaN, fmag_fpack _ (by omega)]
    simp only [decide_eq_true_eq]
    omega

/-- An operation's NaN is a NaN. -/
@[simp] theorem isNaN_fnan (op : FOp) (x y : F) : isNaN (fnan op x y) = true := isNaN_nanOf _

@[simp] theorem fmag_flipSign (x : F) : fmag (flipSign x) = fmag x := fmag_fpack _ (fmag_lt x)
@[simp] theorem fneg?_flipSign (x : F) : fneg? (flipSign x) = !fneg? x := fneg?_fpack _ (fmag_lt x)
@[simp] theorem isNaN_flipSign (x : F) : isNaN (flipSign x) = isNaN x := by simp [isNaN]
@[simp] theorem isInf_flipSign (x : F) : isInf (flipSign x) = isInf x := by simp [isInf]
@[simp] theorem isfinite_flipSign (x : F) : isfinite (flipSign x) = isfinite x := by simp [isfinite]
@[simp] theorem fscaled_flipSign (x : F) : fscaled (flipSign x) = fscaled x := by simp [fscaled]

@[simp] theorem fval_flipSign (x : F) : fval (flipSign x) = -fval x := by
  unfold fval
  cases h : fneg? x <;> simp [h]

/-! ### The value of a magnitude pattern -/

/-- The value, in units of `2^-1074`, of a magnitude pattern. -/
def magValue (m : Nat) : Nat :=
  if m / 2 ^ 52 = 0 then m % 2 ^ 52 else (2 ^ 52 + m % 2 ^ 52) * 2 ^ (m / 2 ^ 52 - 1)

theorem fscaled_eq (x : F) : fscaled x = magValue (fmag x) := rfl

/-- The pattern `sh * 2^52 + m` has the value `m * 2^sh`, for a subnormal significand (`sh = 0`), a normal one, and one that
has just carried. -/
theorem magValue_add (sh m : Nat) (hm : m ≤ 2 ^ 53) (h : sh = 0 ∨ 2 ^ 52 ≤ m) : magValue (sh * 2 ^ 52 + m) = m * 2 ^ sh := by
  unfold magValue
  rcases Nat.lt_or_ge m (2 ^ 52) with h1 | h1
  · have hs : sh = 0 := by omega
    subst hs
    rw [if_pos (by omega)]
    simp; omega
  · rw [if_neg (by omega)]
    rcases Nat.lt_or_ge m (2 ^ 53) with h2 | h2
    · have h3 : (sh * 2 ^ 52 + m) / 2 ^ 52 - 1 = sh := by omega
      have h4 : 2 ^ 52 + (sh * 2 ^ 52 + m) % 2 ^ 52 = m := by omega
      rw [h3, h4]
    · have h3 : (sh * 2 ^ 52 + m) / 2 ^ 52 - 1 = sh + 1 := by omega
      have h4 : 2 ^ 52 + (sh * 2 ^ 52 + m) % 2 ^ 52 = 2 ^ 52 := by omega
      have h5 : m = 2 ^ 52 * 2 := by omega
      rw [h3, h4, h5, pow_succ 2 sh]
      ring

/-- Every magnitude pattern in that form. -/
theorem exists_significand (k : Nat) : ∃ sh m, k = sh * 2 ^ 52 + m ∧ m < 2 ^ 53 ∧ (sh = 0 ∨ 2 ^ 52 ≤ m) :=
  ⟨k / 2 ^ 52 - 1, k - (k / 2 ^ 52 - 1) * 2 ^ 52, by omega, by omega, by omega⟩

/-- A greater magnitude pattern has a greater value. -/
theorem magValue_strictMono : StrictMono magValue := by
  refine strictMono_nat_of_lt_succ fun k => ?_
  obtain ⟨sh, m, rfl, hm, h⟩ := exists_significand k
  rw [magValue_add sh m (by omega) h, Nat.add_assoc, magValue_add sh (m + 1) (by omega) (by omega)]
  exact Nat.mul_lt_mul_of_pos_right (by omega) (Nat.two_pow_pos _)

theorem magValue_zero : magValue 0 = 0 := rfl

/-- A value is zero only for the zeros. -/
theorem fscaled_eq_zero (x : F) : fscaled x = 0 ↔ isZero x = true := by
  rw [fscaled_eq, isZero, decide_eq_true_eq, ← magValue_zero]
  exact magValue_strictMono.injective.eq_iff

/-! ### Rounding -/

/-- The nearest integer is within half a unit. -/
theorem roundDiv_near (n d : Nat) (hd : 0 < d) : 2 * n ≤ 2 * (roundDiv n d * d) + d ∧ 2 * (roundDiv n d * d) ≤ 2 * n + d := by
  have h1 := Nat.div_add_mod n d
  have h2 := Nat.mod_lt n hd
  rw [Nat.mul_comm] at h1
  unfold roundDiv
  simp only [Bool.or_eq_true, decide_eq_true_eq, Bool.and_eq_true, beq_iff_eq]
  split
  · rw [Nat.add_mul]; omega
  · omega

theorem roundDiv_mul (m d : Nat) (hd : 0 < d) : roundDiv (m * d) d = m := by
  simp [roundDiv, Nat.mul_div_cancel _ hd]
  omega

/-- Rounding to an integer keeps the order. -/
theorem roundDiv_mono {n n' d d' : Nat} (hd : 0 < d) (hd' : 0 < d') (h : n * d' ≤ n' * d) : roundDiv n d ≤ roundDiv n' d' := by
  have hq : n / d ≤ n' / d' := by
    rw [Nat.le_div_iff_mul_le hd']
    refine Nat.le_of_mul_le_mul_right ?_ hd
    calc n / d * d' * d = (n / d * d) * d' := by ring
      _ ≤ n * d' := Nat.mul_le_mul_right _ (Nat.div_mul_le_self n d)
      _ ≤ n' * d := h
  rcases Nat.lt_or_ge (n / d) (n' / d') with hlt | hge
  · have h1 : roundDiv n d ≤ n / d + 1 := by
      unfold roundDiv; dsimp only; split <;> omega
    have h2 : n' / d' ≤ roundDiv n' d' := by
      unfold roundDiv; dsimp only; split <;> omega
    omega
  · have heq : n / d = n' / d' := Nat.le_antisymm hq hge
    have e1 := Nat.div_add_mod n d
    have e2 := Nat.div_add_mod n' d'
    have hr : n % d * d' ≤ n' % d' * d := by
      have e3 : n * d' = n / d * (d * d') + n % d * d' := by
        conv_lhs => rw [← e1]
        ring
      have e4 : n' * d = n / d * (d * d') + n' % d' * d := by
        conv_lhs => rw [← e2]
        rw [heq]; ring
      omega
    unfold roundDiv
    simp only [Bool.or_eq_true, decide_eq_true_eq, Bool.and_eq_true, beq_iff_eq, ← heq]
    by_cases hu : d < 2 * (n % d) ∨ 2 * (n % d) = d ∧ n / d % 2 = 1
    · rw [if_pos hu]
      have hd2 : d ≤ 2 * (n % d) := by omega
      have hd2' : d' ≤ 2 * (n' % d') := by
        refine Nat.le_of_mul_le_mul_right ?_ hd
        calc d' * d = d * d' := Nat.mul_comm _ _
          _ ≤ 2 * (n % d) * d' := Nat.mul_le_mul_right _ hd2
          _ = 2 * (n % d * d') := by ring
          _ ≤ 2 * (n' % d' * d) := by omega
          _ = 2 * (n' % d') * d := by ring
      have hu' : d' < 2 * (n' % d') ∨ 2 * (n' % d') = d' ∧ n / d % 2 = 1 := by
        rcases hu with hu | hu
        · left
          refine Nat.lt_of_mul_lt_mul_right (a := d) ?_
          calc d' * d = d * d' := Nat.mul_comm _ _
            _ < 2 * (n % d) * d' := Nat.mul_lt_mul_of_pos_right hu hd'
            _ = 2 * (n % d * d') := by ring
            _ ≤ 2 * (n' % d' * d) := by omega
            _ = 2 * (n' % d') * d := by ring
        · omega
      rw [if_pos hu']
    · rw [if_neg hu]; split <;> omega

/-- The significand that rounding keeps is at least `2^52` when it has been scaled down, and at most `2^53`. -/
theorem roundMag_significand (n d : Nat) (hd : 0 < d) :
    roundDiv n (d * 2 ^ (Nat.log2 (n / d) - 52)) ≤ 2 ^ 53 ∧
      (Nat.log2 (n / d) - 52 = 0 ∨ 2 ^ 52 ≤ roundDiv n (d * 2 ^ (Nat.log2 (n / d) - 52))) := by
  generalize hs : Nat.log2 (n / d) - 52 = sh
  have hp : 0 < 2 ^ sh := Nat.two_pow_pos _
  have hD : 0 < d * 2 ^ sh := Nat.mul_pos hd hp
  constructor
  · have hlt : n / d < 2 ^ (53 + sh) := by
      calc n / d < 2 ^ (Nat.log2 (n / d) + 1) := Nat.lt_log2_self
        _ ≤ 2 ^ (53 + sh) := Nat.pow_le_pow_right (by decide) (by omega)
    have h1 : n ≤ 2 ^ 53 * (d * 2 ^ sh) := by
      have := (Nat.div_lt_iff_lt_mul hd).1 hlt
      rw [Nat.pow_add] at this
      calc n ≤ 2 ^ 53 * 2 ^ sh * d := this.le
        _ = 2 ^ 53 * (d * 2 ^ sh) := by ring
    have h2 := roundDiv_mono (n := n) (n' := 2 ^ 53 * (d * 2 ^ sh)) hD hD (Nat.mul_le_mul_right _ h1)
    rwa [roundDiv_mul _ _ hD] at h2
  · rcases Nat.eq_zero_or_pos sh with h0 | h0
    · exact .inl h0
    · right
      have hne : n / d ≠ 0 := by intro h; simp [h] at hs; omega
      have hle : 2 ^ (52 + sh) ≤ n / d := by
        calc 2 ^ (52 + sh) = 2 ^ Nat.log2 (n / d) := by congr 1; omega
          _ ≤ n / d := Nat.log2_self_le hne
      have h1 : 2 ^ 52 * (d * 2 ^ sh) ≤ n := by
        have := (Nat.le_div_iff_mul_le hd).1 hle
        rw [Nat.pow_add] at this
        calc 2 ^ 52 * (d * 2 ^ sh) = 2 ^ 52 * 2 ^ sh * d := by ring
          _ ≤ n := this
      have h2 := roundDiv_mono (n := 2 ^ 52 * (d * 2 ^ sh)) (n' := n) hD hD (Nat.mul_le_mul_right _ h1)
      rwa [roundDiv_mul _ _ hD] at h2

/-- The value of a rounded magnitude below infinity. -/
theorem magValue_roundMag (n d : Nat) (hd : 0 < d) (h : roundMag n d < fInfMag) :
    magValue (roundMag n d) = roundDiv n (d * 2 ^ (Nat.log2 (n / d) - 52)) * 2 ^ (Nat.log2 (n / d) - 52) := by
  obtain ⟨h1, h2⟩ := roundMag_significand n d hd
  rw [← magValue_add _ _ h1 h2]
  congr 1
  simp only [roundMag] at h ⊢
  omega

theorem roundMag_le (n d : Nat) : roundMag n d ≤ fInfMag := Nat.min_le_right _ _

/-- A value that is an F value rounds to itself. -/
theorem roundMag_magValue {m d : Nat} (hd : 0 < d) (h : m ≤ fInfMag) : roundMag (magValue m * d) d = m := by
  obtain ⟨sh, k, rfl, hk, hn⟩ := exists_significand m
  rw [magValue_add sh k hk.le hn]
  have hlog : Nat.log2 (k * 2 ^ sh) - 52 = sh := by
    rcases Nat.lt_or_ge k (2 ^ 52) with h1 | h1
    · have h0 : sh = 0 := by omega
      subst h0
      rcases Nat.eq_zero_or_pos k with rfl | hk0
      · simp
      · have := (Nat.log2_lt (n := k) (k := 52) (by omega)).2 h1
        simp; omega
    · have hp : 0 < 2 ^ sh := Nat.two_pow_pos _
      have hne : k * 2 ^ sh ≠ 0 := Nat.mul_ne_zero (by omega) hp.ne'
      have : Nat.log2 (k * 2 ^ sh) = 52 + sh := by
        refine (Nat.log2_eq_iff hne).2 ⟨?_, ?_⟩
        · rw [Nat.pow_add]; exact Nat.mul_le_mul_right _ h1
        · rw [show 52 + sh + 1 = 53 + sh by omega, Nat.pow_add]
          exact Nat.mul_lt_mul_of_pos_right hk hp
      omega
  unfold roundMag
  rw [Nat.mul_div_cancel _ hd]
  simp only [hlog]
  rw [Nat.mul_assoc, Nat.mul_comm (2 ^ sh) d, roundDiv_mul _ _ (Nat.mul_pos hd (Nat.two_pow_pos _))]
  omega

/-- Rounding keeps the order of exact values. -/
theorem roundMag_mono {n n' d d' : Nat} (hd : 0 < d) (hd' : 0 < d') (h : n * d' ≤ n' * d) : roundMag n d ≤ roundMag n' d' := by
  have hq : n / d ≤ n' / d' := by
    rw [Nat.le_div_iff_mul_le hd']
    refine Nat.le_of_mul_le_mul_right ?_ hd
    calc n / d * d' * d = (n / d * d) * d' := by ring
      _ ≤ n * d' := Nat.mul_le_mul_right _ (Nat.div_mul_le_self n d)
      _ ≤ n' * d := h
  have hlog : Nat.log2 (n / d) ≤ Nat.log2 (n' / d') := by
    rcases Nat.eq_zero_or_pos (n / d) with h0 | h0
    · rw [h0]; simp
    · exact (Nat.le_log2 (by omega)).2 (le_trans (Nat.log2_self_le (by omega)) hq)
  obtain ⟨h1, h2⟩ := roundMag_significand n d hd
  obtain ⟨h3, h4⟩ := roundMag_significand n' d' hd'
  unfold roundMag
  refine min_le_min ?_ le_rfl
  rcases Nat.lt_or_ge (Nat.log2 (n / d) - 52) (Nat.log2 (n' / d') - 52) with hlt | hge
  · omega
  · have heq : Nat.log2 (n / d) - 52 = Nat.log2 (n' / d') - 52 := by omega
    rw [heq]
    have hp : 0 < 2 ^ (Nat.log2 (n' / d') - 52) := Nat.two_pow_pos _
    refine Nat.add_le_add_left (roundDiv_mono (Nat.mul_pos hd hp) (Nat.mul_pos hd' hp) ?_) _
    calc n * (d' * 2 ^ (Nat.log2 (n' / d') - 52)) = n * d' * 2 ^ (Nat.log2 (n' / d') - 52) := by ring
      _ ≤ n' * d * 2 ^ (Nat.log2 (n' / d') - 52) := Nat.mul_le_mul_right _ h
      _ = n' * (d * 2 ^ (Nat.log2 (n' / d') - 52)) := by ring

/-! ### Rounded results -/

theorem fInfMag_lt : fInfMag < 2 ^ 63 := by decide

@[simp] theorem fmag_roundF (neg : Bool) (n d : Nat) : fmag (roundF neg n d) = roundMag n d :=
  fmag_fpack _ (lt_of_le_of_lt (roundMag_le n d) fInfMag_lt)

@[simp] theorem fneg?_roundF (neg : Bool) (n d : Nat) : fneg? (roundF neg n d) = neg :=
  fneg?_fpack _ (lt_of_le_of_lt (roundMag_le n d) fInfMag_lt)

/-- A rounded result is never a NaN. -/
@[simp] theorem isNaN_roundF (neg : Bool) (n d : Nat) : isNaN (roundF neg n d) = false := by
  simpa [isNaN] using roundMag_le n d

@[simp] theorem isNaN_roundSum (b : Bool) (v : Int) : isNaN (roundSum b v) = false := by
  unfold roundSum
  split
  · rw [isNaN, fmag_fpack _ (by decide)]; decide
  · simp

/-- Arithmetic on finite operands is one rounding of the exact result. -/
theorem fadd_of_finite {x y : F} (hx : isfinite x = true) (hy : isfinite y = true) :
    fadd x y = roundSum (fneg? x && fneg? y) (fval x + fval y) := by
  simp [fadd, faddAs, isNaN_of_isfinite, isInf_of_isfinite, hx, hy]

theorem fsub_of_finite {x y : F} (hx : isfinite x = true) (hy : isfinite y = true) :
    fsub x y = roundSum (fneg? x && !fneg? y) (fval x - fval y) := by
  simp [fsub, faddAs, isNaN_of_isfinite, isInf_of_isfinite, hx, hy, Int.sub_eq_add_neg]

theorem fmul_of_finite {x y : F} (hx : isfinite x = true) (hy : isfinite y = true) :
    fmul x y = roundF (fneg? x != fneg? y) (fscaled x * fscaled y) fUnit := by
  simp [fmul, isNaN_of_isfinite, isInf_of_isfinite, hx, hy]

theorem fdiv_of_finite {x y : F} (hx : isfinite x = true) (hy : isfinite y = true) (h0 : isZero y = false) :
    fdiv x y = roundF (fneg? x != fneg? y) (fscaled x * fUnit) (fscaled y) := by
  simp [fdiv, isNaN_of_isfinite, isInf_of_isfinite, hx, hy, h0]

/-- An exact sum that is an F value is that value. -/
theorem roundSum_fval (b : Bool) {z : F} (hz : isfinite z = true) (h : isZero z = false) : roundSum b (fval z) = z := by
  have hs : fscaled z ≠ 0 := fun h' => by simp [(fscaled_eq_zero z).1 h'] at h
  have hv : fval z ≠ 0 := by unfold fval; split <;> omega
  have hm : fmag z ≤ fInfMag := by simp [isfinite] at hz; omega
  have hn : (fval z).natAbs = fscaled z := by unfold fval; split <;> omega
  have hneg : decide (fval z < 0) = fneg? z := by
    unfold fval
    cases hsgn : fneg? z <;> simp
    omega
  unfold roundSum
  rw [if_neg hv, hn, hneg]
  apply F.ext_parts
  · simp
  · have := roundMag_magValue (m := fmag z) (d := 1) (by decide) hm
    rw [fmag_roundF, fscaled_eq, ← Nat.mul_one (magValue _)]
    exact this

/-- An exact sum whose magnitude is that of an F value is not rounded. -/
theorem roundSum_exact (b : Bool) {v : Int} {m : Nat} (hm : m < fInfMag) (hv : v.natAbs = magValue m) :
    isfinite (roundSum b v) = true ∧ fval (roundSum b v) = v := by
  have hI := fInfMag_lt
  unfold roundSum
  split
  · rename_i h0
    subst h0
    refine ⟨by rw [isfinite, fmag_fpack _ (by decide)]; decide, ?_⟩
    rw [fval, fscaled_eq, fmag_fpack _ (by decide), magValue_zero]
    simp
  · have hr : roundMag v.natAbs 1 = m := by
      have := roundMag_magValue (m := m) (d := 1) (by decide) hm.le
      rwa [Nat.mul_one, ← hv] at this
    refine ⟨by rw [isfinite, fmag_roundF, hr]; simpa using hm, ?_⟩
    rw [fval, fscaled_eq, fneg?_roundF, fmag_roundF, hr, ← hv]
    by_cases h : v < 0 <;> simp only [h, decide_true, decide_false, if_true, if_false, Bool.false_eq_true] <;> omega

/-! ### Order -/

/-- Among non-NaN patterns `<=` and `<` compare the order keys. -/
theorem fle_iff {x y : F} (hx : isNaN x = false) (hy : isNaN y = false) : fle x y = true ↔ fkey x ≤ fkey y := by
  simp [fle, hx, hy]

theorem flt_iff {x y : F} (hx : isNaN x = false) (hy : isNaN y = false) : flt x y = true ↔ fkey x < fkey y := by
  simp [flt, hx, hy]

theorem feq_iff {x y : F} (hx : isNaN x = false) (hy : isNaN y = false) : feq x y = true ↔ fkey x = fkey y := by
  simp [feq, hx, hy]

/-- The order key orders patterns as their values. -/
theorem fkey_le_iff (x y : F) : fkey x ≤ fkey y ↔ fval x ≤ fval y := by
  have h1 := magValue_strictMono.le_iff_le (a := fmag x) (b := fmag y)
  have h2 := magValue_strictMono.le_iff_le (a := fmag y) (b := fmag x)
  have hx := magValue_strictMono.le_iff_le (a := fmag x) (b := 0)
  have hy := magValue_strictMono.le_iff_le (a := fmag y) (b := 0)
  rw [magValue_zero] at hx hy
  unfold fkey fval
  rw [fscaled_eq, fscaled_eq]
  cases fneg? x <;> cases fneg? y <;> simp only [Bool.false_eq_true, if_false, if_true] <;> omega

theorem fkey_lt_iff (x y : F) : fkey x < fkey y ↔ fval x < fval y := by
  have := fkey_le_iff y x
  omega

theorem fkey_eq_iff (x y : F) : fkey x = fkey y ↔ fval x = fval y := by
  have h1 := fkey_le_iff x y
  have h2 := fkey_le_iff y x
  omega

@[simp] theorem fval_fzero : fval fzero = 0 := by decide
@[simp] theorem fkey_fzero : fkey fzero = 0 := by decide
@[simp] theorem isNaN_fzero : isNaN fzero = false := by decide
@[simp] theorem isfinite_fzero : isfinite fzero = true := by decide

/-- A clamped number lies between the bounds. -/
theorem clampF_range {v lo hi : F} (hv : isNaN v = false) (h : fle lo hi = true) :
    fle lo (clampF v lo hi) = true ∧ fle (clampF v lo hi) hi = true := by
  have hlo : isNaN lo = false := by cases hn : isNaN lo <;> simp_all [fle]
  have hhi : isNaN hi = false := by cases hn : isNaN hi <;> simp_all [fle]
  rw [fle_iff hlo hhi] at h
  unfold clampF
  split
  · rw [fle_iff hlo hlo, fle_iff hlo hhi]; exact ⟨le_rfl, h⟩
  · rename_i h1
    rw [flt_iff hv hlo] at h1
    split
    · rw [fle_iff hlo hhi, fle_iff hhi hhi]; exact ⟨h, le_rfl⟩
    · rename_i h2
      rw [flt_iff hhi hv] at h2
      rw [fle_iff hlo hv, fle_iff hv hhi]; omega

/-! ### Whole part and fraction -/

/-- Every `j * 2^s` with a significand below `2^53`, not above a finite value, is the value of a finite pattern. -/
theorem exists_pattern (j s z : Nat) (hj : j < 2 ^ 53) (hz : z < fInfMag) (h : j * 2 ^ s ≤ magValue z) :
    ∃ m, m < fInfMag ∧ j * 2 ^ s = magValue m := by
  suffices ∃ m, j * 2 ^ s = magValue m by
    obtain ⟨m, hm⟩ := this
    refine ⟨m, ?_, hm⟩
    rw [hm] at h
    exact lt_of_le_of_lt (magValue_strictMono.le_iff_le.1 h) hz
  rcases Nat.eq_zero_or_pos j with rfl | hj0
  · exact ⟨0, by simp [magValue_zero]⟩
  have h1 := Nat.log2_self_le (n := j) (by omega)
  have h2 := Nat.lt_log2_self (n := j)
  have h3 : Nat.log2 j < 53 := (Nat.log2_lt (by omega)).2 hj
  rcases Nat.lt_or_ge s (52 - Nat.log2 j) with hs | hs
  · refine ⟨0 * 2 ^ 52 + j * 2 ^ s, ?_⟩
    have : j * 2 ^ s < 2 ^ 52 := by
      calc j * 2 ^ s < 2 ^ (Nat.log2 j + 1) * 2 ^ s := Nat.mul_lt_mul_of_pos_right h2 (Nat.two_pow_pos _)
        _ = 2 ^ (Nat.log2 j + 1 + s) := (Nat.pow_add ..).symm
        _ ≤ 2 ^ 52 := Nat.pow_le_pow_right (by decide) (by omega)
    rw [magValue_add 0 _ (by omega) (.inl rfl)]
    simp
  · refine ⟨(s - (52 - Nat.log2 j)) * 2 ^ 52 + j * 2 ^ (52 - Nat.log2 j), ?_⟩
    have h4 : 2 ^ 52 ≤ j * 2 ^ (52 - Nat.log2 j) := by
      calc 2 ^ 52 = 2 ^ Nat.log2 j * 2 ^ (52 - Nat.log2 j) := by rw [← Nat.pow_add]; congr 1; omega
        _ ≤ _ := Nat.mul_le_mul_right _ h1
    have h5 : j * 2 ^ (52 - Nat.log2 j) ≤ 2 ^ 53 := by
      calc j * 2 ^ (52 - Nat.log2 j) ≤ 2 ^ (Nat.log2 j + 1) * 2 ^ (52 - Nat.log2 j) := Nat.mul_le_mul_right _ h2.le
        _ = 2 ^ 53 := by rw [← Nat.pow_add]; congr 1; omega
    rw [magValue_add _ _ h5 (.inr h4), Nat.mul_assoc, ← Nat.pow_add]
    congr 2; omega

/-- The whole part and the fraction of a finite value are F values. -/
theorem exists_pattern_floor (z : Nat) (hz : z < fInfMag) :
    (∃ m, m < fInfMag ∧ magValue z / fUnit * fUnit = magValue m) ∧ ∃ m, m < fInfMag ∧ magValue z % fUnit = magValue m := by
  obtain ⟨sh, k, hk, hk3, hn⟩ := exists_significand z
  have hv : magValue z = k * 2 ^ sh := by rw [hk]; exact magValue_add sh k hk3.le hn
  have hle : magValue z / fUnit * fUnit ≤ magValue z := Nat.div_mul_le_self _ _
  have hle2 : magValue z % fUnit ≤ magValue z := Nat.mod_le _ _
  rcases Nat.lt_or_ge sh 1074 with h | h
  · have hu : fUnit = 2 ^ (1074 - sh) * 2 ^ sh := by
      rw [← Nat.pow_add, show 1074 - sh + sh = 1074 by omega, fUnit]
    have hp : 0 < 2 ^ sh := Nat.two_pow_pos _
    constructor
    · have e : magValue z / fUnit * fUnit = (k / 2 ^ (1074 - sh)) * 2 ^ 1074 := by
        rw [hv, hu, Nat.mul_div_mul_right _ _ hp, ← Nat.pow_add, show 1074 - sh + sh = 1074 by omega]
      rw [e] at hle ⊢
      exact exists_pattern _ _ z (lt_of_le_of_lt (Nat.div_le_self _ _) hk3) hz hle
    · have e : magValue z % fUnit = (k % 2 ^ (1074 - sh)) * 2 ^ sh := by
        rw [hv, hu, Nat.mul_mod_mul_right]
      rw [e] at hle2 ⊢
      exact exists_pattern _ _ z (lt_of_le_of_lt (Nat.mod_le _ _) hk3) hz hle2
  · have hdvd : fUnit ∣ magValue z := by
      rw [hv]; unfold fUnit
      exact Dvd.dvd.mul_left (Nat.pow_dvd_pow _ h) _
    refine ⟨⟨z, hz, Nat.div_mul_cancel hdvd⟩, ⟨0, by decide, ?_⟩⟩
    rw [Nat.mod_eq_zero_of_dvd hdvd, magValue_zero]

theorem fUnit_pos : 0 < fUnit := Nat.two_pow_pos 1074

/-- `v - floor(v)` of a finite `v ≥ 0` is exact, and lies in `[0, 1)`. -/
theorem fraction_range {v : F} (hv : isfinite v = true) (h0 : 0 ≤ fval v) :
    isfinite (fsub v (fofInt (ffloor v))) = true ∧ fval (fsub v (fofInt (ffloor v))) = fval v % (fUnit : Int) := by
  have hz : fmag v < fInfMag := by simpa [isfinite] using hv
  have hU : (0 : Int) < (fUnit : Int) := Int.natCast_pos.2 fUnit_pos
  have hval : fval v = (magValue (fmag v) : Int) := by
    rw [← fscaled_eq]
    unfold fval at h0 ⊢
    split at h0
    · rename_i hn; rw [if_pos hn]; omega
    · rename_i hn; rw [if_neg hn]
  obtain ⟨⟨m, hm, e⟩, m', hm', e'⟩ := exists_pattern_floor (fmag v) hz
  have hfl : ffloor v * (fUnit : Int) = (magValue m : Int) := by
    rw [ffloor, hval, ← e]; push_cast; rfl
  obtain ⟨f1, f2⟩ := roundSum_exact false (v := ffloor v * (fUnit : Int)) hm (by rw [hfl]; rfl)
  have hd : fval v - ffloor v * (fUnit : Int) = (magValue m' : Int) := by
    rw [hfl, ← e, hval, ← e']
    have := Nat.div_add_mod (magValue (fmag v)) fUnit
    push_cast
    have h2 := Int.emod_add_mul_ediv (magValue (fmag v) : Int) (fUnit : Int)
    linarith
  have hfin : isfinite (fofInt (ffloor v)) = true := f1
  have hfv : fval (fofInt (ffloor v)) = ffloor v * (fUnit : Int) := f2
  rw [fsub_of_finite hv hfin, hfv]
  obtain ⟨g1, g2⟩ := roundSum_exact (fneg? v && !fneg? (fofInt (ffloor v))) (v := fval v - ffloor v * (fUnit : Int)) hm'
    (by rw [hd]; rfl)
  refine ⟨g1, ?_⟩
  rw [g2, Int.emod_def, ffloor, Int.mul_comm]

/-- A value not below zero is positive, or a zero of either sign. -/
theorem nonneg_cases {x : F} (h : 0 ≤ fval x) : fneg? x = false ∨ fmag x = 0 := by
  cases hn : fneg? x
  · exact .inl rfl
  · right
    unfold fval at h
    rw [if_pos hn] at h
    have h0 : fscaled x = 0 := by omega
    simpa [isZero] using (fscaled_eq_zero x).1 h0

/-- A rounded result whose exact value is not below zero is not below zero. -/
theorem roundF_nonneg {neg : Bool} {n d : Nat} (hd : 0 < d) (h : neg = false ∨ n = 0) : 0 ≤ fval (roundF neg n d) := by
  unfold fval
  rw [fscaled_eq, fneg?_roundF, fmag_roundF]
  rcases h with rfl | rfl
  · simp
  · have : roundMag 0 d = 0 := by
      have := roundMag_magValue (m := 0) hd (by decide)
      rwa [magValue_zero, Nat.zero_mul] at this
    rw [this, magValue_zero]
    split <;> simp

end Sys2Proof.Machine
end

