-- ==== Sys2Proof/Laws/State.lean ====
section
/-! SUPPORT. For each named update of the state, one lemma per field: the field it writes, and each field it keeps. -/

namespace Sys2Proof.Machine

@[simp] theorem State.setR_params (s : State) (v : IntArgs) : (s.setR v).params = s.params := rfl
@[simp] theorem State.setR_r (s : State) (v : IntArgs) : (s.setR v).r = v := rfl
@[simp] theorem State.setR_f (s : State) (v : IntArgs) : (s.setR v).f = s.f := rfl
@[simp] theorem State.setR_halt (s : State) (v : IntArgs) : (s.setR v).halt = s.halt := rfl
@[simp] theorem State.setR_errcode (s : State) (v : IntArgs) : (s.setR v).errcode = s.errcode := rfl
@[simp] theorem State.setR_errcmd (s : State) (v : IntArgs) : (s.setR v).errcmd = s.errcmd := rfl
@[simp] theorem State.setR_dftN (s : State) (v : IntArgs) : (s.setR v).dftN = s.dftN := rfl
@[simp] theorem State.setR_fftN (s : State) (v : IntArgs) : (s.setR v).fftN = s.fftN := rfl
@[simp] theorem State.setR_win (s : State) (v : IntArgs) : (s.setR v).win = s.win := rfl
@[simp] theorem State.setR_dl (s : State) (v : IntArgs) : (s.setR v).dl = s.dl := rfl
@[simp] theorem State.setR_sp (s : State) (v : IntArgs) : (s.setR v).sp = s.sp := rfl
@[simp] theorem State.setR_bq (s : State) (v : IntArgs) : (s.setR v).bq = s.bq := rfl
@[simp] theorem State.setR_svf (s : State) (v : IntArgs) : (s.setR v).svf = s.svf := rfl
@[simp] theorem State.setR_cb (s : State) (v : IntArgs) : (s.setR v).cb = s.cb := rfl
@[simp] theorem State.setR_cv (s : State) (v : IntArgs) : (s.setR v).cv = s.cv := rfl
@[simp] theorem State.setR_fc (s : State) (v : IntArgs) : (s.setR v).fc = s.fc := rfl
@[simp] theorem State.setR_peq (s : State) (v : IntArgs) : (s.setR v).peq = s.peq := rfl
@[simp] theorem State.setR_dm (s : State) (v : IntArgs) : (s.setR v).dm = s.dm := rfl
@[simp] theorem State.setR_resets (s : State) (v : IntArgs) : (s.setR v).resets = s.resets := rfl
@[simp] theorem State.setR_host (s : State) (v : IntArgs) : (s.setR v).host = s.host := rfl
@[simp] theorem State.setR_replies (s : State) (v : IntArgs) : (s.setR v).replies = s.replies := rfl
@[simp] theorem State.setF_params (s : State) (v : FloatArgs) : (s.setF v).params = s.params := rfl
@[simp] theorem State.setF_r (s : State) (v : FloatArgs) : (s.setF v).r = s.r := rfl
@[simp] theorem State.setF_f (s : State) (v : FloatArgs) : (s.setF v).f = v := rfl
@[simp] theorem State.setF_halt (s : State) (v : FloatArgs) : (s.setF v).halt = s.halt := rfl
@[simp] theorem State.setF_errcode (s : State) (v : FloatArgs) : (s.setF v).errcode = s.errcode := rfl
@[simp] theorem State.setF_errcmd (s : State) (v : FloatArgs) : (s.setF v).errcmd = s.errcmd := rfl
@[simp] theorem State.setF_dftN (s : State) (v : FloatArgs) : (s.setF v).dftN = s.dftN := rfl
@[simp] theorem State.setF_fftN (s : State) (v : FloatArgs) : (s.setF v).fftN = s.fftN := rfl
@[simp] theorem State.setF_win (s : State) (v : FloatArgs) : (s.setF v).win = s.win := rfl
@[simp] theorem State.setF_dl (s : State) (v : FloatArgs) : (s.setF v).dl = s.dl := rfl
@[simp] theorem State.setF_sp (s : State) (v : FloatArgs) : (s.setF v).sp = s.sp := rfl
@[simp] theorem State.setF_bq (s : State) (v : FloatArgs) : (s.setF v).bq = s.bq := rfl
@[simp] theorem State.setF_svf (s : State) (v : FloatArgs) : (s.setF v).svf = s.svf := rfl
@[simp] theorem State.setF_cb (s : State) (v : FloatArgs) : (s.setF v).cb = s.cb := rfl
@[simp] theorem State.setF_cv (s : State) (v : FloatArgs) : (s.setF v).cv = s.cv := rfl
@[simp] theorem State.setF_fc (s : State) (v : FloatArgs) : (s.setF v).fc = s.fc := rfl
@[simp] theorem State.setF_peq (s : State) (v : FloatArgs) : (s.setF v).peq = s.peq := rfl
@[simp] theorem State.setF_dm (s : State) (v : FloatArgs) : (s.setF v).dm = s.dm := rfl
@[simp] theorem State.setF_resets (s : State) (v : FloatArgs) : (s.setF v).resets = s.resets := rfl
@[simp] theorem State.setF_host (s : State) (v : FloatArgs) : (s.setF v).host = s.host := rfl
@[simp] theorem State.setF_replies (s : State) (v : FloatArgs) : (s.setF v).replies = s.replies := rfl
@[simp] theorem State.setDftN_params (s : State) (v : U32) : (s.setDftN v).params = s.params := rfl
@[simp] theorem State.setDftN_r (s : State) (v : U32) : (s.setDftN v).r = s.r := rfl
@[simp] theorem State.setDftN_f (s : State) (v : U32) : (s.setDftN v).f = s.f := rfl
@[simp] theorem State.setDftN_halt (s : State) (v : U32) : (s.setDftN v).halt = s.halt := rfl
@[simp] theorem State.setDftN_errcode (s : State) (v : U32) : (s.setDftN v).errcode = s.errcode := rfl
@[simp] theorem State.setDftN_errcmd (s : State) (v : U32) : (s.setDftN v).errcmd = s.errcmd := rfl
@[simp] theorem State.setDftN_dftN (s : State) (v : U32) : (s.setDftN v).dftN = v := rfl
@[simp] theorem State.setDftN_fftN (s : State) (v : U32) : (s.setDftN v).fftN = s.fftN := rfl
@[simp] theorem State.setDftN_win (s : State) (v : U32) : (s.setDftN v).win = s.win := rfl
@[simp] theorem State.setDftN_dl (s : State) (v : U32) : (s.setDftN v).dl = s.dl := rfl
@[simp] theorem State.setDftN_sp (s : State) (v : U32) : (s.setDftN v).sp = s.sp := rfl
@[simp] theorem State.setDftN_bq (s : State) (v : U32) : (s.setDftN v).bq = s.bq := rfl
@[simp] theorem State.setDftN_svf (s : State) (v : U32) : (s.setDftN v).svf = s.svf := rfl
@[simp] theorem State.setDftN_cb (s : State) (v : U32) : (s.setDftN v).cb = s.cb := rfl
@[simp] theorem State.setDftN_cv (s : State) (v : U32) : (s.setDftN v).cv = s.cv := rfl
@[simp] theorem State.setDftN_fc (s : State) (v : U32) : (s.setDftN v).fc = s.fc := rfl
@[simp] theorem State.setDftN_peq (s : State) (v : U32) : (s.setDftN v).peq = s.peq := rfl
@[simp] theorem State.setDftN_dm (s : State) (v : U32) : (s.setDftN v).dm = s.dm := rfl
@[simp] theorem State.setDftN_resets (s : State) (v : U32) : (s.setDftN v).resets = s.resets := rfl
@[simp] theorem State.setDftN_host (s : State) (v : U32) : (s.setDftN v).host = s.host := rfl
@[simp] theorem State.setDftN_replies (s : State) (v : U32) : (s.setDftN v).replies = s.replies := rfl
@[simp] theorem State.setFftN_params (s : State) (v : U32) : (s.setFftN v).params = s.params := rfl
@[simp] theorem State.setFftN_r (s : State) (v : U32) : (s.setFftN v).r = s.r := rfl
@[simp] theorem State.setFftN_f (s : State) (v : U32) : (s.setFftN v).f = s.f := rfl
@[simp] theorem State.setFftN_halt (s : State) (v : U32) : (s.setFftN v).halt = s.halt := rfl
@[simp] theorem State.setFftN_errcode (s : State) (v : U32) : (s.setFftN v).errcode = s.errcode := rfl
@[simp] theorem State.setFftN_errcmd (s : State) (v : U32) : (s.setFftN v).errcmd = s.errcmd := rfl
@[simp] theorem State.setFftN_dftN (s : State) (v : U32) : (s.setFftN v).dftN = s.dftN := rfl
@[simp] theorem State.setFftN_fftN (s : State) (v : U32) : (s.setFftN v).fftN = v := rfl
@[simp] theorem State.setFftN_win (s : State) (v : U32) : (s.setFftN v).win = s.win := rfl
@[simp] theorem State.setFftN_dl (s : State) (v : U32) : (s.setFftN v).dl = s.dl := rfl
@[simp] theorem State.setFftN_sp (s : State) (v : U32) : (s.setFftN v).sp = s.sp := rfl
@[simp] theorem State.setFftN_bq (s : State) (v : U32) : (s.setFftN v).bq = s.bq := rfl
@[simp] theorem State.setFftN_svf (s : State) (v : U32) : (s.setFftN v).svf = s.svf := rfl
@[simp] theorem State.setFftN_cb (s : State) (v : U32) : (s.setFftN v).cb = s.cb := rfl
@[simp] theorem State.setFftN_cv (s : State) (v : U32) : (s.setFftN v).cv = s.cv := rfl
@[simp] theorem State.setFftN_fc (s : State) (v : U32) : (s.setFftN v).fc = s.fc := rfl
@[simp] theorem State.setFftN_peq (s : State) (v : U32) : (s.setFftN v).peq = s.peq := rfl
@[simp] theorem State.setFftN_dm (s : State) (v : U32) : (s.setFftN v).dm = s.dm := rfl
@[simp] theorem State.setFftN_resets (s : State) (v : U32) : (s.setFftN v).resets = s.resets := rfl
@[simp] theorem State.setFftN_host (s : State) (v : U32) : (s.setFftN v).host = s.host := rfl
@[simp] theorem State.setFftN_replies (s : State) (v : U32) : (s.setFftN v).replies = s.replies := rfl
@[simp] theorem State.setWin_params (s : State) (v : Window) : (s.setWin v).params = s.params := rfl
@[simp] theorem State.setWin_r (s : State) (v : Window) : (s.setWin v).r = s.r := rfl
@[simp] theorem State.setWin_f (s : State) (v : Window) : (s.setWin v).f = s.f := rfl
@[simp] theorem State.setWin_halt (s : State) (v : Window) : (s.setWin v).halt = s.halt := rfl
@[simp] theorem State.setWin_errcode (s : State) (v : Window) : (s.setWin v).errcode = s.errcode := rfl
@[simp] theorem State.setWin_errcmd (s : State) (v : Window) : (s.setWin v).errcmd = s.errcmd := rfl
@[simp] theorem State.setWin_dftN (s : State) (v : Window) : (s.setWin v).dftN = s.dftN := rfl
@[simp] theorem State.setWin_fftN (s : State) (v : Window) : (s.setWin v).fftN = s.fftN := rfl
@[simp] theorem State.setWin_win (s : State) (v : Window) : (s.setWin v).win = v := rfl
@[simp] theorem State.setWin_dl (s : State) (v : Window) : (s.setWin v).dl = s.dl := rfl
@[simp] theorem State.setWin_sp (s : State) (v : Window) : (s.setWin v).sp = s.sp := rfl
@[simp] theorem State.setWin_bq (s : State) (v : Window) : (s.setWin v).bq = s.bq := rfl
@[simp] theorem State.setWin_svf (s : State) (v : Window) : (s.setWin v).svf = s.svf := rfl
@[simp] theorem State.setWin_cb (s : State) (v : Window) : (s.setWin v).cb = s.cb := rfl
@[simp] theorem State.setWin_cv (s : State) (v : Window) : (s.setWin v).cv = s.cv := rfl
@[simp] theorem State.setWin_fc (s : State) (v : Window) : (s.setWin v).fc = s.fc := rfl
@[simp] theorem State.setWin_peq (s : State) (v : Window) : (s.setWin v).peq = s.peq := rfl
@[simp] theorem State.setWin_dm (s : State) (v : Window) : (s.setWin v).dm = s.dm := rfl
@[simp] theorem State.setWin_resets (s : State) (v : Window) : (s.setWin v).resets = s.resets := rfl
@[simp] theorem State.setWin_host (s : State) (v : Window) : (s.setWin v).host = s.host := rfl
@[simp] theorem State.setWin_replies (s : State) (v : Window) : (s.setWin v).replies = s.replies := rfl
@[simp] theorem State.setDl_params (s : State) (v : DelayLine) : (s.setDl v).params = s.params := rfl
@[simp] theorem State.setDl_r (s : State) (v : DelayLine) : (s.setDl v).r = s.r := rfl
@[simp] theorem State.setDl_f (s : State) (v : DelayLine) : (s.setDl v).f = s.f := rfl
@[simp] theorem State.setDl_halt (s : State) (v : DelayLine) : (s.setDl v).halt = s.halt := rfl
@[simp] theorem State.setDl_errcode (s : State) (v : DelayLine) : (s.setDl v).errcode = s.errcode := rfl
@[simp] theorem State.setDl_errcmd (s : State) (v : DelayLine) : (s.setDl v).errcmd = s.errcmd := rfl
@[simp] theorem State.setDl_dftN (s : State) (v : DelayLine) : (s.setDl v).dftN = s.dftN := rfl
@[simp] theorem State.setDl_fftN (s : State) (v : DelayLine) : (s.setDl v).fftN = s.fftN := rfl
@[simp] theorem State.setDl_win (s : State) (v : DelayLine) : (s.setDl v).win = s.win := rfl
@[simp] theorem State.setDl_dl (s : State) (v : DelayLine) : (s.setDl v).dl = v := rfl
@[simp] theorem State.setDl_sp (s : State) (v : DelayLine) : (s.setDl v).sp = s.sp := rfl
@[simp] theorem State.setDl_bq (s : State) (v : DelayLine) : (s.setDl v).bq = s.bq := rfl
@[simp] theorem State.setDl_svf (s : State) (v : DelayLine) : (s.setDl v).svf = s.svf := rfl
@[simp] theorem State.setDl_cb (s : State) (v : DelayLine) : (s.setDl v).cb = s.cb := rfl
@[simp] theorem State.setDl_cv (s : State) (v : DelayLine) : (s.setDl v).cv = s.cv := rfl
@[simp] theorem State.setDl_fc (s : State) (v : DelayLine) : (s.setDl v).fc = s.fc := rfl
@[simp] theorem State.setDl_peq (s : State) (v : DelayLine) : (s.setDl v).peq = s.peq := rfl
@[simp] theorem State.setDl_dm (s : State) (v : DelayLine) : (s.setDl v).dm = s.dm := rfl
@[simp] theorem State.setDl_resets (s : State) (v : DelayLine) : (s.setDl v).resets = s.resets := rfl
@[simp] theorem State.setDl_host (s : State) (v : DelayLine) : (s.setDl v).host = s.host := rfl
@[simp] theorem State.setDl_replies (s : State) (v : DelayLine) : (s.setDl v).replies = s.replies := rfl
@[simp] theorem State.setSp_params (s : State) (v : SinglePole) : (s.setSp v).params = s.params := rfl
@[simp] theorem State.setSp_r (s : State) (v : SinglePole) : (s.setSp v).r = s.r := rfl
@[simp] theorem State.setSp_f (s : State) (v : SinglePole) : (s.setSp v).f = s.f := rfl
@[simp] theorem State.setSp_halt (s : State) (v : SinglePole) : (s.setSp v).halt = s.halt := rfl
@[simp] theorem State.setSp_errcode (s : State) (v : SinglePole) : (s.setSp v).errcode = s.errcode := rfl
@[simp] theorem State.setSp_errcmd (s : State) (v : SinglePole) : (s.setSp v).errcmd = s.errcmd := rfl
@[simp] theorem State.setSp_dftN (s : State) (v : SinglePole) : (s.setSp v).dftN = s.dftN := rfl
@[simp] theorem State.setSp_fftN (s : State) (v : SinglePole) : (s.setSp v).fftN = s.fftN := rfl
@[simp] theorem State.setSp_win (s : State) (v : SinglePole) : (s.setSp v).win = s.win := rfl
@[simp] theorem State.setSp_dl (s : State) (v : SinglePole) : (s.setSp v).dl = s.dl := rfl
@[simp] theorem State.setSp_sp (s : State) (v : SinglePole) : (s.setSp v).sp = v := rfl
@[simp] theorem State.setSp_bq (s : State) (v : SinglePole) : (s.setSp v).bq = s.bq := rfl
@[simp] theorem State.setSp_svf (s : State) (v : SinglePole) : (s.setSp v).svf = s.svf := rfl
@[simp] theorem State.setSp_cb (s : State) (v : SinglePole) : (s.setSp v).cb = s.cb := rfl
@[simp] theorem State.setSp_cv (s : State) (v : SinglePole) : (s.setSp v).cv = s.cv := rfl
@[simp] theorem State.setSp_fc (s : State) (v : SinglePole) : (s.setSp v).fc = s.fc := rfl
@[simp] theorem State.setSp_peq (s : State) (v : SinglePole) : (s.setSp v).peq = s.peq := rfl
@[simp] theorem State.setSp_dm (s : State) (v : SinglePole) : (s.setSp v).dm = s.dm := rfl
@[simp] theorem State.setSp_resets (s : State) (v : SinglePole) : (s.setSp v).resets = s.resets := rfl
@[simp] theorem State.setSp_host (s : State) (v : SinglePole) : (s.setSp v).host = s.host := rfl
@[simp] theorem State.setSp_replies (s : State) (v : SinglePole) : (s.setSp v).replies = s.replies := rfl
@[simp] theorem State.setBq_params (s : State) (v : List Biquad) : (s.setBq v).params = s.params := rfl
@[simp] theorem State.setBq_r (s : State) (v : List Biquad) : (s.setBq v).r = s.r := rfl
@[simp] theorem State.setBq_f (s : State) (v : List Biquad) : (s.setBq v).f = s.f := rfl
@[simp] theorem State.setBq_halt (s : State) (v : List Biquad) : (s.setBq v).halt = s.halt := rfl
@[simp] theorem State.setBq_errcode (s : State) (v : List Biquad) : (s.setBq v).errcode = s.errcode := rfl
@[simp] theorem State.setBq_errcmd (s : State) (v : List Biquad) : (s.setBq v).errcmd = s.errcmd := rfl
@[simp] theorem State.setBq_dftN (s : State) (v : List Biquad) : (s.setBq v).dftN = s.dftN := rfl
@[simp] theorem State.setBq_fftN (s : State) (v : List Biquad) : (s.setBq v).fftN = s.fftN := rfl
@[simp] theorem State.setBq_win (s : State) (v : List Biquad) : (s.setBq v).win = s.win := rfl
@[simp] theorem State.setBq_dl (s : State) (v : List Biquad) : (s.setBq v).dl = s.dl := rfl
@[simp] theorem State.setBq_sp (s : State) (v : List Biquad) : (s.setBq v).sp = s.sp := rfl
@[simp] theorem State.setBq_bq (s : State) (v : List Biquad) : (s.setBq v).bq = v := rfl
@[simp] theorem State.setBq_svf (s : State) (v : List Biquad) : (s.setBq v).svf = s.svf := rfl
@[simp] theorem State.setBq_cb (s : State) (v : List Biquad) : (s.setBq v).cb = s.cb := rfl
@[simp] theorem State.setBq_cv (s : State) (v : List Biquad) : (s.setBq v).cv = s.cv := rfl
@[simp] theorem State.setBq_fc (s : State) (v : List Biquad) : (s.setBq v).fc = s.fc := rfl
@[simp] theorem State.setBq_peq (s : State) (v : List Biquad) : (s.setBq v).peq = s.peq := rfl
@[simp] theorem State.setBq_dm (s : State) (v : List Biquad) : (s.setBq v).dm = s.dm := rfl
@[simp] theorem State.setBq_resets (s : State) (v : List Biquad) : (s.setBq v).resets = s.resets := rfl
@[simp] theorem State.setBq_host (s : State) (v : List Biquad) : (s.setBq v).host = s.host := rfl
@[simp] theorem State.setBq_replies (s : State) (v : List Biquad) : (s.setBq v).replies = s.replies := rfl
@[simp] theorem State.setSvf_params (s : State) (v : Svf) : (s.setSvf v).params = s.params := rfl
@[simp] theorem State.setSvf_r (s : State) (v : Svf) : (s.setSvf v).r = s.r := rfl
@[simp] theorem State.setSvf_f (s : State) (v : Svf) : (s.setSvf v).f = s.f := rfl
@[simp] theorem State.setSvf_halt (s : State) (v : Svf) : (s.setSvf v).halt = s.halt := rfl
@[simp] theorem State.setSvf_errcode (s : State) (v : Svf) : (s.setSvf v).errcode = s.errcode := rfl
@[simp] theorem State.setSvf_errcmd (s : State) (v : Svf) : (s.setSvf v).errcmd = s.errcmd := rfl
@[simp] theorem State.setSvf_dftN (s : State) (v : Svf) : (s.setSvf v).dftN = s.dftN := rfl
@[simp] theorem State.setSvf_fftN (s : State) (v : Svf) : (s.setSvf v).fftN = s.fftN := rfl
@[simp] theorem State.setSvf_win (s : State) (v : Svf) : (s.setSvf v).win = s.win := rfl
@[simp] theorem State.setSvf_dl (s : State) (v : Svf) : (s.setSvf v).dl = s.dl := rfl
@[simp] theorem State.setSvf_sp (s : State) (v : Svf) : (s.setSvf v).sp = s.sp := rfl
@[simp] theorem State.setSvf_bq (s : State) (v : Svf) : (s.setSvf v).bq = s.bq := rfl
@[simp] theorem State.setSvf_svf (s : State) (v : Svf) : (s.setSvf v).svf = v := rfl
@[simp] theorem State.setSvf_cb (s : State) (v : Svf) : (s.setSvf v).cb = s.cb := rfl
@[simp] theorem State.setSvf_cv (s : State) (v : Svf) : (s.setSvf v).cv = s.cv := rfl
@[simp] theorem State.setSvf_fc (s : State) (v : Svf) : (s.setSvf v).fc = s.fc := rfl
@[simp] theorem State.setSvf_peq (s : State) (v : Svf) : (s.setSvf v).peq = s.peq := rfl
@[simp] theorem State.setSvf_dm (s : State) (v : Svf) : (s.setSvf v).dm = s.dm := rfl
@[simp] theorem State.setSvf_resets (s : State) (v : Svf) : (s.setSvf v).resets = s.resets := rfl
@[simp] theorem State.setSvf_host (s : State) (v : Svf) : (s.setSvf v).host = s.host := rfl
@[simp] theorem State.setSvf_replies (s : State) (v : Svf) : (s.setSvf v).replies = s.replies := rfl
@[simp] theorem State.setCb_params (s : State) (v : Comb) : (s.setCb v).params = s.params := rfl
@[simp] theorem State.setCb_r (s : State) (v : Comb) : (s.setCb v).r = s.r := rfl
@[simp] theorem State.setCb_f (s : State) (v : Comb) : (s.setCb v).f = s.f := rfl
@[simp] theorem State.setCb_halt (s : State) (v : Comb) : (s.setCb v).halt = s.halt := rfl
@[simp] theorem State.setCb_errcode (s : State) (v : Comb) : (s.setCb v).errcode = s.errcode := rfl
@[simp] theorem State.setCb_errcmd (s : State) (v : Comb) : (s.setCb v).errcmd = s.errcmd := rfl
@[simp] theorem State.setCb_dftN (s : State) (v : Comb) : (s.setCb v).dftN = s.dftN := rfl
@[simp] theorem State.setCb_fftN (s : State) (v : Comb) : (s.setCb v).fftN = s.fftN := rfl
@[simp] theorem State.setCb_win (s : State) (v : Comb) : (s.setCb v).win = s.win := rfl
@[simp] theorem State.setCb_dl (s : State) (v : Comb) : (s.setCb v).dl = s.dl := rfl
@[simp] theorem State.setCb_sp (s : State) (v : Comb) : (s.setCb v).sp = s.sp := rfl
@[simp] theorem State.setCb_bq (s : State) (v : Comb) : (s.setCb v).bq = s.bq := rfl
@[simp] theorem State.setCb_svf (s : State) (v : Comb) : (s.setCb v).svf = s.svf := rfl
@[simp] theorem State.setCb_cb (s : State) (v : Comb) : (s.setCb v).cb = v := rfl
@[simp] theorem State.setCb_cv (s : State) (v : Comb) : (s.setCb v).cv = s.cv := rfl
@[simp] theorem State.setCb_fc (s : State) (v : Comb) : (s.setCb v).fc = s.fc := rfl
@[simp] theorem State.setCb_peq (s : State) (v : Comb) : (s.setCb v).peq = s.peq := rfl
@[simp] theorem State.setCb_dm (s : State) (v : Comb) : (s.setCb v).dm = s.dm := rfl
@[simp] theorem State.setCb_resets (s : State) (v : Comb) : (s.setCb v).resets = s.resets := rfl
@[simp] theorem State.setCb_host (s : State) (v : Comb) : (s.setCb v).host = s.host := rfl
@[simp] theorem State.setCb_replies (s : State) (v : Comb) : (s.setCb v).replies = s.replies := rfl
@[simp] theorem State.setCv_params (s : State) (v : DirectConv) : (s.setCv v).params = s.params := rfl
@[simp] theorem State.setCv_r (s : State) (v : DirectConv) : (s.setCv v).r = s.r := rfl
@[simp] theorem State.setCv_f (s : State) (v : DirectConv) : (s.setCv v).f = s.f := rfl
@[simp] theorem State.setCv_halt (s : State) (v : DirectConv) : (s.setCv v).halt = s.halt := rfl
@[simp] theorem State.setCv_errcode (s : State) (v : DirectConv) : (s.setCv v).errcode = s.errcode := rfl
@[simp] theorem State.setCv_errcmd (s : State) (v : DirectConv) : (s.setCv v).errcmd = s.errcmd := rfl
@[simp] theorem State.setCv_dftN (s : State) (v : DirectConv) : (s.setCv v).dftN = s.dftN := rfl
@[simp] theorem State.setCv_fftN (s : State) (v : DirectConv) : (s.setCv v).fftN = s.fftN := rfl
@[simp] theorem State.setCv_win (s : State) (v : DirectConv) : (s.setCv v).win = s.win := rfl
@[simp] theorem State.setCv_dl (s : State) (v : DirectConv) : (s.setCv v).dl = s.dl := rfl
@[simp] theorem State.setCv_sp (s : State) (v : DirectConv) : (s.setCv v).sp = s.sp := rfl
@[simp] theorem State.setCv_bq (s : State) (v : DirectConv) : (s.setCv v).bq = s.bq := rfl
@[simp] theorem State.setCv_svf (s : State) (v : DirectConv) : (s.setCv v).svf = s.svf := rfl
@[simp] theorem State.setCv_cb (s : State) (v : DirectConv) : (s.setCv v).cb = s.cb := rfl
@[simp] theorem State.setCv_cv (s : State) (v : DirectConv) : (s.setCv v).cv = v := rfl
@[simp] theorem State.setCv_fc (s : State) (v : DirectConv) : (s.setCv v).fc = s.fc := rfl
@[simp] theorem State.setCv_peq (s : State) (v : DirectConv) : (s.setCv v).peq = s.peq := rfl
@[simp] theorem State.setCv_dm (s : State) (v : DirectConv) : (s.setCv v).dm = s.dm := rfl
@[simp] theorem State.setCv_resets (s : State) (v : DirectConv) : (s.setCv v).resets = s.resets := rfl
@[simp] theorem State.setCv_host (s : State) (v : DirectConv) : (s.setCv v).host = s.host := rfl
@[simp] theorem State.setCv_replies (s : State) (v : DirectConv) : (s.setCv v).replies = s.replies := rfl
@[simp] theorem State.setFc_params (s : State) (v : FastConv) : (s.setFc v).params = s.params := rfl
@[simp] theorem State.setFc_r (s : State) (v : FastConv) : (s.setFc v).r = s.r := rfl
@[simp] theorem State.setFc_f (s : State) (v : FastConv) : (s.setFc v).f = s.f := rfl
@[simp] theorem State.setFc_halt (s : State) (v : FastConv) : (s.setFc v).halt = s.halt := rfl
@[simp] theorem State.setFc_errcode (s : State) (v : FastConv) : (s.setFc v).errcode = s.errcode := rfl
@[simp] theorem State.setFc_errcmd (s : State) (v : FastConv) : (s.setFc v).errcmd = s.errcmd := rfl
@[simp] theorem State.setFc_dftN (s : State) (v : FastConv) : (s.setFc v).dftN = s.dftN := rfl
@[simp] theorem State.setFc_fftN (s : State) (v : FastConv) : (s.setFc v).fftN = s.fftN := rfl
@[simp] theorem State.setFc_win (s : State) (v : FastConv) : (s.setFc v).win = s.win := rfl
@[simp] theorem State.setFc_dl (s : State) (v : FastConv) : (s.setFc v).dl = s.dl := rfl
@[simp] theorem State.setFc_sp (s : State) (v : FastConv) : (s.setFc v).sp = s.sp := rfl
@[simp] theorem State.setFc_bq (s : State) (v : FastConv) : (s.setFc v).bq = s.bq := rfl
@[simp] theorem State.setFc_svf (s : State) (v : FastConv) : (s.setFc v).svf = s.svf := rfl
@[simp] theorem State.setFc_cb (s : State) (v : FastConv) : (s.setFc v).cb = s.cb := rfl
@[simp] theorem State.setFc_cv (s : State) (v : FastConv) : (s.setFc v).cv = s.cv := rfl
@[simp] theorem State.setFc_fc (s : State) (v : FastConv) : (s.setFc v).fc = v := rfl
@[simp] theorem State.setFc_peq (s : State) (v : FastConv) : (s.setFc v).peq = s.peq := rfl
@[simp] theorem State.setFc_dm (s : State) (v : FastConv) : (s.setFc v).dm = s.dm := rfl
@[simp] theorem State.setFc_resets (s : State) (v : FastConv) : (s.setFc v).resets = s.resets := rfl
@[simp] theorem State.setFc_host (s : State) (v : FastConv) : (s.setFc v).host = s.host := rfl
@[simp] theorem State.setFc_replies (s : State) (v : FastConv) : (s.setFc v).replies = s.replies := rfl
@[simp] theorem State.setPeq_params (s : State) (v : Peq) : (s.setPeq v).params = s.params := rfl
@[simp] theorem State.setPeq_r (s : State) (v : Peq) : (s.setPeq v).r = s.r := rfl
@[simp] theorem State.setPeq_f (s : State) (v : Peq) : (s.setPeq v).f = s.f := rfl
@[simp] theorem State.setPeq_halt (s : State) (v : Peq) : (s.setPeq v).halt = s.halt := rfl
@[simp] theorem State.setPeq_errcode (s : State) (v : Peq) : (s.setPeq v).errcode = s.errcode := rfl
@[simp] theorem State.setPeq_errcmd (s : State) (v : Peq) : (s.setPeq v).errcmd = s.errcmd := rfl
@[simp] theorem State.setPeq_dftN (s : State) (v : Peq) : (s.setPeq v).dftN = s.dftN := rfl
@[simp] theorem State.setPeq_fftN (s : State) (v : Peq) : (s.setPeq v).fftN = s.fftN := rfl
@[simp] theorem State.setPeq_win (s : State) (v : Peq) : (s.setPeq v).win = s.win := rfl
@[simp] theorem State.setPeq_dl (s : State) (v : Peq) : (s.setPeq v).dl = s.dl := rfl
@[simp] theorem State.setPeq_sp (s : State) (v : Peq) : (s.setPeq v).sp = s.sp := rfl
@[simp] theorem State.setPeq_bq (s : State) (v : Peq) : (s.setPeq v).bq = s.bq := rfl
@[simp] theorem State.setPeq_svf (s : State) (v : Peq) : (s.setPeq v).svf = s.svf := rfl
@[simp] theorem State.setPeq_cb (s : State) (v : Peq) : (s.setPeq v).cb = s.cb := rfl
@[simp] theorem State.setPeq_cv (s : State) (v : Peq) : (s.setPeq v).cv = s.cv := rfl
@[simp] theorem State.setPeq_fc (s : State) (v : Peq) : (s.setPeq v).fc = s.fc := rfl
@[simp] theorem State.setPeq_peq (s : State) (v : Peq) : (s.setPeq v).peq = v := rfl
@[simp] theorem State.setPeq_dm (s : State) (v : Peq) : (s.setPeq v).dm = s.dm := rfl
@[simp] theorem State.setPeq_resets (s : State) (v : Peq) : (s.setPeq v).resets = s.resets := rfl
@[simp] theorem State.setPeq_host (s : State) (v : Peq) : (s.setPeq v).host = s.host := rfl
@[simp] theorem State.setPeq_replies (s : State) (v : Peq) : (s.setPeq v).replies = s.replies := rfl
@[simp] theorem State.setDm_params (s : State) (v : Memory) : (s.setDm v).params = s.params := rfl
@[simp] theorem State.setDm_r (s : State) (v : Memory) : (s.setDm v).r = s.r := rfl
@[simp] theorem State.setDm_f (s : State) (v : Memory) : (s.setDm v).f = s.f := rfl
@[simp] theorem State.setDm_halt (s : State) (v : Memory) : (s.setDm v).halt = s.halt := rfl
@[simp] theorem State.setDm_errcode (s : State) (v : Memory) : (s.setDm v).errcode = s.errcode := rfl
@[simp] theorem State.setDm_errcmd (s : State) (v : Memory) : (s.setDm v).errcmd = s.errcmd := rfl
@[simp] theorem State.setDm_dftN (s : State) (v : Memory) : (s.setDm v).dftN = s.dftN := rfl
@[simp] theorem State.setDm_fftN (s : State) (v : Memory) : (s.setDm v).fftN = s.fftN := rfl
@[simp] theorem State.setDm_win (s : State) (v : Memory) : (s.setDm v).win = s.win := rfl
@[simp] theorem State.setDm_dl (s : State) (v : Memory) : (s.setDm v).dl = s.dl := rfl
@[simp] theorem State.setDm_sp (s : State) (v : Memory) : (s.setDm v).sp = s.sp := rfl
@[simp] theorem State.setDm_bq (s : State) (v : Memory) : (s.setDm v).bq = s.bq := rfl
@[simp] theorem State.setDm_svf (s : State) (v : Memory) : (s.setDm v).svf = s.svf := rfl
@[simp] theorem State.setDm_cb (s : State) (v : Memory) : (s.setDm v).cb = s.cb := rfl
@[simp] theorem State.setDm_cv (s : State) (v : Memory) : (s.setDm v).cv = s.cv := rfl
@[simp] theorem State.setDm_fc (s : State) (v : Memory) : (s.setDm v).fc = s.fc := rfl
@[simp] theorem State.setDm_peq (s : State) (v : Memory) : (s.setDm v).peq = s.peq := rfl
@[simp] theorem State.setDm_dm (s : State) (v : Memory) : (s.setDm v).dm = v := rfl
@[simp] theorem State.setDm_resets (s : State) (v : Memory) : (s.setDm v).resets = s.resets := rfl
@[simp] theorem State.setDm_host (s : State) (v : Memory) : (s.setDm v).host = s.host := rfl
@[simp] theorem State.setDm_replies (s : State) (v : Memory) : (s.setDm v).replies = s.replies := rfl
@[simp] theorem State.setHost_params (s : State) (v : List HostEvent) : (s.setHost v).params = s.params := rfl
@[simp] theorem State.setHost_r (s : State) (v : List HostEvent) : (s.setHost v).r = s.r := rfl
@[simp] theorem State.setHost_f (s : State) (v : List HostEvent) : (s.setHost v).f = s.f := rfl
@[simp] theorem State.setHost_halt (s : State) (v : List HostEvent) : (s.setHost v).halt = s.halt := rfl
@[simp] theorem State.setHost_errcode (s : State) (v : List HostEvent) : (s.setHost v).errcode = s.errcode := rfl
@[simp] theorem State.setHost_errcmd (s : State) (v : List HostEvent) : (s.setHost v).errcmd = s.errcmd := rfl
@[simp] theorem State.setHost_dftN (s : State) (v : List HostEvent) : (s.setHost v).dftN = s.dftN := rfl
@[simp] theorem State.setHost_fftN (s : State) (v : List HostEvent) : (s.setHost v).fftN = s.fftN := rfl
@[simp] theorem State.setHost_win (s : State) (v : List HostEvent) : (s.setHost v).win = s.win := rfl
@[simp] theorem State.setHost_dl (s : State) (v : List HostEvent) : (s.setHost v).dl = s.dl := rfl
@[simp] theorem State.setHost_sp (s : State) (v : List HostEvent) : (s.setHost v).sp = s.sp := rfl
@[simp] theorem State.setHost_bq (s : State) (v : List HostEvent) : (s.setHost v).bq = s.bq := rfl
@[simp] theorem State.setHost_svf (s : State) (v : List HostEvent) : (s.setHost v).svf = s.svf := rfl
@[simp] theorem State.setHost_cb (s : State) (v : List HostEvent) : (s.setHost v).cb = s.cb := rfl
@[simp] theorem State.setHost_cv (s : State) (v : List HostEvent) : (s.setHost v).cv = s.cv := rfl
@[simp] theorem State.setHost_fc (s : State) (v : List HostEvent) : (s.setHost v).fc = s.fc := rfl
@[simp] theorem State.setHost_peq (s : State) (v : List HostEvent) : (s.setHost v).peq = s.peq := rfl
@[simp] theorem State.setHost_dm (s : State) (v : List HostEvent) : (s.setHost v).dm = s.dm := rfl
@[simp] theorem State.setHost_resets (s : State) (v : List HostEvent) : (s.setHost v).resets = s.resets := rfl
@[simp] theorem State.setHost_host (s : State) (v : List HostEvent) : (s.setHost v).host = v := rfl
@[simp] theorem State.setHost_replies (s : State) (v : List HostEvent) : (s.setHost v).replies = s.replies := rfl
@[simp] theorem State.setReplies_params (s : State) (v : List (BitVec 64)) : (s.setReplies v).params = s.params := rfl
@[simp] theorem State.setReplies_r (s : State) (v : List (BitVec 64)) : (s.setReplies v).r = s.r := rfl
@[simp] theorem State.setReplies_f (s : State) (v : List (BitVec 64)) : (s.setReplies v).f = s.f := rfl
@[simp] theorem State.setReplies_halt (s : State) (v : List (BitVec 64)) : (s.setReplies v).halt = s.halt := rfl
@[simp] theorem State.setReplies_errcode (s : State) (v : List (BitVec 64)) : (s.setReplies v).errcode = s.errcode := rfl
@[simp] theorem State.setReplies_errcmd (s : State) (v : List (BitVec 64)) : (s.setReplies v).errcmd = s.errcmd := rfl
@[simp] theorem State.setReplies_dftN (s : State) (v : List (BitVec 64)) : (s.setReplies v).dftN = s.dftN := rfl
@[simp] theorem State.setReplies_fftN (s : State) (v : List (BitVec 64)) : (s.setReplies v).fftN = s.fftN := rfl
@[simp] theorem State.setReplies_win (s : State) (v : List (BitVec 64)) : (s.setReplies v).win = s.win := rfl
@[simp] theorem State.setReplies_dl (s : State) (v : List (BitVec 64)) : (s.setReplies v).dl = s.dl := rfl
@[simp] theorem State.setReplies_sp (s : State) (v : List (BitVec 64)) : (s.setReplies v).sp = s.sp := rfl
@[simp] theorem State.setReplies_bq (s : State) (v : List (BitVec 64)) : (s.setReplies v).bq = s.bq := rfl
@[simp] theorem State.setReplies_svf (s : State) (v : List (BitVec 64)) : (s.setReplies v).svf = s.svf := rfl
@[simp] theorem State.setReplies_cb (s : State) (v : List (BitVec 64)) : (s.setReplies v).cb = s.cb := rfl
@[simp] theorem State.setReplies_cv (s : State) (v : List (BitVec 64)) : (s.setReplies v).cv = s.cv := rfl
@[simp] theorem State.setReplies_fc (s : State) (v : List (BitVec 64)) : (s.setReplies v).fc = s.fc := rfl
@[simp] theorem State.setReplies_peq (s : State) (v : List (BitVec 64)) : (s.setReplies v).peq = s.peq := rfl
@[simp] theorem State.setReplies_dm (s : State) (v : List (BitVec 64)) : (s.setReplies v).dm = s.dm := rfl
@[simp] theorem State.setReplies_resets (s : State) (v : List (BitVec 64)) : (s.setReplies v).resets = s.resets := rfl
@[simp] theorem State.setReplies_host (s : State) (v : List (BitVec 64)) : (s.setReplies v).host = s.host := rfl
@[simp] theorem State.setReplies_replies (s : State) (v : List (BitVec 64)) : (s.setReplies v).replies = v := rfl
@[simp] theorem State.setR7_params (s : State) (v : U32) : (s.setR7 v).params = s.params := rfl
@[simp] theorem State.setR7_r (s : State) (v : U32) : (s.setR7 v).r = { s.r with r7 := v } := rfl
@[simp] theorem State.setR7_f (s : State) (v : U32) : (s.setR7 v).f = s.f := rfl
@[simp] theorem State.setR7_halt (s : State) (v : U32) : (s.setR7 v).halt = s.halt := rfl
@[simp] theorem State.setR7_errcode (s : State) (v : U32) : (s.setR7 v).errcode = s.errcode := rfl
@[simp] theorem State.setR7_errcmd (s : State) (v : U32) : (s.setR7 v).errcmd = s.errcmd := rfl
@[simp] theorem State.setR7_dftN (s : State) (v : U32) : (s.setR7 v).dftN = s.dftN := rfl
@[simp] theorem State.setR7_fftN (s : State) (v : U32) : (s.setR7 v).fftN = s.fftN := rfl
@[simp] theorem State.setR7_win (s : State) (v : U32) : (s.setR7 v).win = s.win := rfl
@[simp] theorem State.setR7_dl (s : State) (v : U32) : (s.setR7 v).dl = s.dl := rfl
@[simp] theorem State.setR7_sp (s : State) (v : U32) : (s.setR7 v).sp = s.sp := rfl
@[simp] theorem State.setR7_bq (s : State) (v : U32) : (s.setR7 v).bq = s.bq := rfl
@[simp] theorem State.setR7_svf (s : State) (v : U32) : (s.setR7 v).svf = s.svf := rfl
@[simp] theorem State.setR7_cb (s : State) (v : U32) : (s.setR7 v).cb = s.cb := rfl
@[simp] theorem State.setR7_cv (s : State) (v : U32) : (s.setR7 v).cv = s.cv := rfl
@[simp] theorem State.setR7_fc (s : State) (v : U32) : (s.setR7 v).fc = s.fc := rfl
@[simp] theorem State.setR7_peq (s : State) (v : U32) : (s.setR7 v).peq = s.peq := rfl
@[simp] theorem State.setR7_dm (s : State) (v : U32) : (s.setR7 v).dm = s.dm := rfl
@[simp] theorem State.setR7_resets (s : State) (v : U32) : (s.setR7 v).resets = s.resets := rfl
@[simp] theorem State.setR7_host (s : State) (v : U32) : (s.setR7 v).host = s.host := rfl
@[simp] theorem State.setR7_replies (s : State) (v : U32) : (s.setR7 v).replies = s.replies := rfl
@[simp] theorem State.writeBlock_params (s : State) (a : U32) (vs : List F) : (s.writeBlock a vs).params = s.params := rfl
@[simp] theorem State.writeBlock_r (s : State) (a : U32) (vs : List F) : (s.writeBlock a vs).r = s.r := rfl
@[simp] theorem State.writeBlock_f (s : State) (a : U32) (vs : List F) : (s.writeBlock a vs).f = s.f := rfl
@[simp] theorem State.writeBlock_halt (s : State) (a : U32) (vs : List F) : (s.writeBlock a vs).halt = s.halt := rfl
@[simp] theorem State.writeBlock_errcode (s : State) (a : U32) (vs : List F) : (s.writeBlock a vs).errcode = s.errcode := rfl
@[simp] theorem State.writeBlock_errcmd (s : State) (a : U32) (vs : List F) : (s.writeBlock a vs).errcmd = s.errcmd := rfl
@[simp] theorem State.writeBlock_dftN (s : State) (a : U32) (vs : List F) : (s.writeBlock a vs).dftN = s.dftN := rfl
@[simp] theorem State.writeBlock_fftN (s : State) (a : U32) (vs : List F) : (s.writeBlock a vs).fftN = s.fftN := rfl
@[simp] theorem State.writeBlock_win (s : State) (a : U32) (vs : List F) : (s.writeBlock a vs).win = s.win := rfl
@[simp] theorem State.writeBlock_dl (s : State) (a : U32) (vs : List F) : (s.writeBlock a vs).dl = s.dl := rfl
@[simp] theorem State.writeBlock_sp (s : State) (a : U32) (vs : List F) : (s.writeBlock a vs).sp = s.sp := rfl
@[simp] theorem State.writeBlock_bq (s : State) (a : U32) (vs : List F) : (s.writeBlock a vs).bq = s.bq := rfl
@[simp] theorem State.writeBlock_svf (s : State) (a : U32) (vs : List F) : (s.writeBlock a vs).svf = s.svf := rfl
@[simp] theorem State.writeBlock_cb (s : State) (a : U32) (vs : List F) : (s.writeBlock a vs).cb = s.cb := rfl
@[simp] theorem State.writeBlock_cv (s : State) (a : U32) (vs : List F) : (s.writeBlock a vs).cv = s.cv := rfl
@[simp] theorem State.writeBlock_fc (s : State) (a : U32) (vs : List F) : (s.writeBlock a vs).fc = s.fc := rfl
@[simp] theorem State.writeBlock_peq (s : State) (a : U32) (vs : List F) : (s.writeBlock a vs).peq = s.peq := rfl
@[simp] theorem State.writeBlock_dm (s : State) (a : U32) (vs : List F) : (s.writeBlock a vs).dm = s.dm.writeBlock a.toNat vs := rfl
@[simp] theorem State.writeBlock_resets (s : State) (a : U32) (vs : List F) : (s.writeBlock a vs).resets = s.resets := rfl
@[simp] theorem State.writeBlock_host (s : State) (a : U32) (vs : List F) : (s.writeBlock a vs).host = s.host := rfl
@[simp] theorem State.writeBlock_replies (s : State) (a : U32) (vs : List F) : (s.writeBlock a vs).replies = s.replies := rfl
@[simp] theorem State.setSection_params (s : State) (k : Nat) (b : Biquad) : (s.setSection k b).params = s.params := rfl
@[simp] theorem State.setSection_r (s : State) (k : Nat) (b : Biquad) : (s.setSection k b).r = s.r := rfl
@[simp] theorem State.setSection_f (s : State) (k : Nat) (b : Biquad) : (s.setSection k b).f = s.f := rfl
@[simp] theorem State.setSection_halt (s : State) (k : Nat) (b : Biquad) : (s.setSection k b).halt = s.halt := rfl
@[simp] theorem State.setSection_errcode (s : State) (k : Nat) (b : Biquad) : (s.setSection k b).errcode = s.errcode := rfl
@[simp] theorem State.setSection_errcmd (s : State) (k : Nat) (b : Biquad) : (s.setSection k b).errcmd = s.errcmd := rfl
@[simp] theorem State.setSection_dftN (s : State) (k : Nat) (b : Biquad) : (s.setSection k b).dftN = s.dftN := rfl
@[simp] theorem State.setSection_fftN (s : State) (k : Nat) (b : Biquad) : (s.setSection k b).fftN = s.fftN := rfl
@[simp] theorem State.setSection_win (s : State) (k : Nat) (b : Biquad) : (s.setSection k b).win = s.win := rfl
@[simp] theorem State.setSection_dl (s : State) (k : Nat) (b : Biquad) : (s.setSection k b).dl = s.dl := rfl
@[simp] theorem State.setSection_sp (s : State) (k : Nat) (b : Biquad) : (s.setSection k b).sp = s.sp := rfl
@[simp] theorem State.setSection_bq (s : State) (k : Nat) (b : Biquad) : (s.setSection k b).bq = s.bq.set k b := rfl
@[simp] theorem State.setSection_svf (s : State) (k : Nat) (b : Biquad) : (s.setSection k b).svf = s.svf := rfl
@[simp] theorem State.setSection_cb (s : State) (k : Nat) (b : Biquad) : (s.setSection k b).cb = s.cb := rfl
@[simp] theorem State.setSection_cv (s : State) (k : Nat) (b : Biquad) : (s.setSection k b).cv = s.cv := rfl
@[simp] theorem State.setSection_fc (s : State) (k : Nat) (b : Biquad) : (s.setSection k b).fc = s.fc := rfl
@[simp] theorem State.setSection_peq (s : State) (k : Nat) (b : Biquad) : (s.setSection k b).peq = s.peq := rfl
@[simp] theorem State.setSection_dm (s : State) (k : Nat) (b : Biquad) : (s.setSection k b).dm = s.dm := rfl
@[simp] theorem State.setSection_resets (s : State) (k : Nat) (b : Biquad) : (s.setSection k b).resets = s.resets := rfl
@[simp] theorem State.setSection_host (s : State) (k : Nat) (b : Biquad) : (s.setSection k b).host = s.host := rfl
@[simp] theorem State.setSection_replies (s : State) (k : Nat) (b : Biquad) : (s.setSection k b).replies = s.replies := rfl
@[simp] theorem faultEntry_params (c : ErrCode) (w : CmdWord) (s : State) : (faultEntry c w s).params = s.params := rfl
@[simp] theorem faultEntry_r (c : ErrCode) (w : CmdWord) (s : State) : (faultEntry c w s).r = s.r := rfl
@[simp] theorem faultEntry_f (c : ErrCode) (w : CmdWord) (s : State) : (faultEntry c w s).f = s.f := rfl
@[simp] theorem faultEntry_halt (c : ErrCode) (w : CmdWord) (s : State) : (faultEntry c w s).halt = true := rfl
@[simp] theorem faultEntry_errcode (c : ErrCode) (w : CmdWord) (s : State) : (faultEntry c w s).errcode = c.code := rfl
@[simp] theorem faultEntry_errcmd (c : ErrCode) (w : CmdWord) (s : State) : (faultEntry c w s).errcmd = w := rfl
@[simp] theorem faultEntry_dftN (c : ErrCode) (w : CmdWord) (s : State) : (faultEntry c w s).dftN = s.dftN := rfl
@[simp] theorem faultEntry_fftN (c : ErrCode) (w : CmdWord) (s : State) : (faultEntry c w s).fftN = s.fftN := rfl
@[simp] theorem faultEntry_win (c : ErrCode) (w : CmdWord) (s : State) : (faultEntry c w s).win = s.win := rfl
@[simp] theorem faultEntry_dl (c : ErrCode) (w : CmdWord) (s : State) : (faultEntry c w s).dl = s.dl := rfl
@[simp] theorem faultEntry_sp (c : ErrCode) (w : CmdWord) (s : State) : (faultEntry c w s).sp = s.sp := rfl
@[simp] theorem faultEntry_bq (c : ErrCode) (w : CmdWord) (s : State) : (faultEntry c w s).bq = s.bq := rfl
@[simp] theorem faultEntry_svf (c : ErrCode) (w : CmdWord) (s : State) : (faultEntry c w s).svf = s.svf := rfl
@[simp] theorem faultEntry_cb (c : ErrCode) (w : CmdWord) (s : State) : (faultEntry c w s).cb = s.cb := rfl
@[simp] theorem faultEntry_cv (c : ErrCode) (w : CmdWord) (s : State) : (faultEntry c w s).cv = s.cv := rfl
@[simp] theorem faultEntry_fc (c : ErrCode) (w : CmdWord) (s : State) : (faultEntry c w s).fc = s.fc := rfl
@[simp] theorem faultEntry_peq (c : ErrCode) (w : CmdWord) (s : State) : (faultEntry c w s).peq = s.peq := rfl
@[simp] theorem faultEntry_dm (c : ErrCode) (w : CmdWord) (s : State) : (faultEntry c w s).dm = s.dm := rfl
@[simp] theorem faultEntry_resets (c : ErrCode) (w : CmdWord) (s : State) : (faultEntry c w s).resets = s.resets := rfl
@[simp] theorem faultEntry_host (c : ErrCode) (w : CmdWord) (s : State) : (faultEntry c w s).host = s.host := rfl
@[simp] theorem faultEntry_replies (c : ErrCode) (w : CmdWord) (s : State) : (faultEntry c w s).replies = s.replies := rfl
@[simp] theorem clearFault_params (s : State) : (clearFault s).params = s.params := rfl
@[simp] theorem clearFault_r (s : State) : (clearFault s).r = s.r := rfl
@[simp] theorem clearFault_f (s : State) : (clearFault s).f = s.f := rfl
@[simp] theorem clearFault_halt (s : State) : (clearFault s).halt = false := rfl
@[simp] theorem clearFault_errcode (s : State) : (clearFault s).errcode = 0#8 := rfl
@[simp] theorem clearFault_errcmd (s : State) : (clearFault s).errcmd = 0#32 := rfl
@[simp] theorem clearFault_dftN (s : State) : (clearFault s).dftN = s.dftN := rfl
@[simp] theorem clearFault_fftN (s : State) : (clearFault s).fftN = s.fftN := rfl
@[simp] theorem clearFault_win (s : State) : (clearFault s).win = s.win := rfl
@[simp] theorem clearFault_dl (s : State) : (clearFault s).dl = s.dl := rfl
@[simp] theorem clearFault_sp (s : State) : (clearFault s).sp = s.sp := rfl
@[simp] theorem clearFault_bq (s : State) : (clearFault s).bq = s.bq := rfl
@[simp] theorem clearFault_svf (s : State) : (clearFault s).svf = s.svf := rfl
@[simp] theorem clearFault_cb (s : State) : (clearFault s).cb = s.cb := rfl
@[simp] theorem clearFault_cv (s : State) : (clearFault s).cv = s.cv := rfl
@[simp] theorem clearFault_fc (s : State) : (clearFault s).fc = s.fc := rfl
@[simp] theorem clearFault_peq (s : State) : (clearFault s).peq = s.peq := rfl
@[simp] theorem clearFault_dm (s : State) : (clearFault s).dm = s.dm := rfl
@[simp] theorem clearFault_resets (s : State) : (clearFault s).resets = s.resets := rfl
@[simp] theorem clearFault_host (s : State) : (clearFault s).host = s.host := rfl
@[simp] theorem clearFault_replies (s : State) : (clearFault s).replies = s.replies := rfl
@[simp] theorem State.softReset_params (s : State) : s.softReset.params = s.params := rfl
@[simp] theorem State.softReset_dm (s : State) : s.softReset.dm = s.dm := rfl
@[simp] theorem State.softReset_resets (s : State) : s.softReset.resets = s.resets := rfl
@[simp] theorem State.softReset_host (s : State) : s.softReset.host = s.host := rfl
@[simp] theorem State.softReset_replies (s : State) : s.softReset.replies = s.replies := rfl
@[simp] theorem State.hardReset_params (s : State) : s.hardReset.params = s.params := rfl
@[simp] theorem State.hardReset_host (s : State) : s.hardReset.host = s.host := rfl
@[simp] theorem State.hardReset_replies (s : State) : s.hardReset.replies = s.replies := rfl

end Sys2Proof.Machine
end

