-- ==== Sys2Proof/Laws/Memory.lean ====
section
/-! SUPPORT. The laws of cell and block access: reading after a write, and the canonical form kept by every memory
operation (20_memory.md R101, R111, R113). -/

namespace Sys2Proof.Machine

/-! ### One cell -/

theorem Memory.read?_append (m k : Memory) (a : Nat) :
    Memory.read? (m ++ k) a = (Memory.read? m a).or (Memory.read? k a) := by
  induction m with
  | nil => simp [Memory.read?]
  | cons c m ih =>
    simp only [List.cons_append, Memory.read?, ih]
    split <;> simp

theorem Memory.read?_filter (p : Nat → Bool) (m : Memory) (a : Nat) :
    Memory.read? (m.filter fun c => p c.1) a = if p a then Memory.read? m a else none := by
  induction m with
  | nil => simp [Memory.read?]
  | cons c m ih =>
    rw [List.filter_cons]
    by_cases hc : p c.1 = true
    · rw [if_pos hc, Memory.read?, ih, Memory.read?]
      by_cases h : c.1 = a
      · simp [← h, hc]
      · simp [h]
    · rw [if_neg hc, ih, Memory.read?]
      by_cases h : c.1 = a
      · simp [← h, hc]
      · simp [h]

theorem Memory.read?_cellsFrom (b : Nat) (vs : List F) (a : Nat) :
    Memory.read? (cellsFrom b vs) a = if b ≤ a then vs[a - b]? else none := by
  induction vs generalizing b with
  | nil => simp [cellsFrom, Memory.read?]
  | cons v vs ih =>
    simp only [cellsFrom, Memory.read?, ih]
    by_cases h : b = a
    · simp [h]
    · by_cases hb : b ≤ a
      · have h1 : b + 1 ≤ a := by omega
        have h2 : a - b = (a - (b + 1)) + 1 := by omega
        simp [h, hb, h1, h2]
      · have h1 : ¬ b + 1 ≤ a := by omega
        simp [h, hb, h1]

/-- What a cell reads as after a block has been written: the block's element inside the block, as before outside. -/
theorem Memory.read?_writeBlock (m : Memory) (b : Nat) (vs : List F) (a : Nat) :
    Memory.read? (m.writeBlock b vs) a =
      if b ≤ a ∧ a < b + vs.length then vs[a - b]? else Memory.read? m a := by
  cases vs with
  | nil => simp [Memory.writeBlock]
  | cons v vs =>
    simp only [Memory.writeBlock, Memory.read?_append, Memory.read?_cellsFrom,
      Memory.read?_filter (fun x => decide (x < b)), Memory.read?_filter (fun x => decide (b + (vs.length + 1) ≤ x)),
      List.length_cons]
    by_cases h1 : a < b
    · have h2 : ¬ b ≤ a := by omega
      have h3 : ¬ b + (vs.length + 1) ≤ a := by omega
      simp [h1, h2, h3]
    · have h2 : b ≤ a := by omega
      by_cases h3 : a < b + (vs.length + 1)
      · have h4 : ¬ b + (vs.length + 1) ≤ a := by omega
        simp [h1, h2, h3, h4]
      · have h4 : b + (vs.length + 1) ≤ a := by omega
        have h5 : (v :: vs)[a - b]? = none := by simp; omega
        simp [h1, h2, h3, h4, h5]

/-- `Memory.read?_writeBlock` for the value a cell holds. -/
theorem Memory.get_writeBlock (free : Nat → F) (m : Memory) (b : Nat) (vs : List F) (a : Nat) :
    Memory.get free (m.writeBlock b vs) a =
      if b ≤ a ∧ a < b + vs.length then vs.getD (a - b) 0#64 else Memory.get free m a := by
  unfold Memory.get
  rw [Memory.read?_writeBlock]
  by_cases h : b ≤ a ∧ a < b + vs.length
  · have h1 : a - b < vs.length := by omega
    simp [h, h1, List.getD]
  · simp [h]

/-! ### Blocks -/

@[simp] theorem Memory.writeBlock_nil (m : Memory) (a : Nat) : m.writeBlock a [] = m := rfl

@[simp] theorem Memory.readBlock_length (free : Nat → F) (m : Memory) (a n : Nat) :
    (Memory.readBlock free m a n).length = n := by simp [Memory.readBlock]

theorem Memory.readBlock_getElem? (free : Nat → F) (m : Memory) (a n i : Nat) (h : i < n) :
    (Memory.readBlock free m a n)[i]? = some (Memory.get free m (a + i)) := by
  simp [Memory.readBlock, h]

/-- A block of `n + k` cells is the block of its first `n` and the block of the rest. -/
theorem Memory.readBlock_add (free : Nat → F) (m : Memory) (a n k : Nat) :
    Memory.readBlock free m a (n + k) = Memory.readBlock free m a n ++ Memory.readBlock free m (a + n) k := by
  simp only [Memory.readBlock, List.range_add, List.map_append, List.map_map]
  congr 1
  apply List.map_congr_left
  intro i _
  simp [Nat.add_assoc]

/-- A block read that meets no cell of a written block reads what it read before. -/
theorem Memory.readBlock_writeBlock_of_disjoint (free : Nat → F) (m : Memory) (b : Nat) (vs : List F) (a n : Nat)
    (h : a + n ≤ b ∨ b + vs.length ≤ a) :
    Memory.readBlock free (m.writeBlock b vs) a n = Memory.readBlock free m a n := by
  simp only [Memory.readBlock]
  apply List.map_congr_left
  intro i hi
  have hi' : i < n := by simpa using hi
  rw [Memory.get_writeBlock, if_neg (by omega)]

/-- A block just written reads back. -/
theorem Memory.readBlock_writeBlock_same (free : Nat → F) (m : Memory) (a : Nat) (vs : List F) :
    Memory.readBlock free (m.writeBlock a vs) a vs.length = vs := by
  apply List.ext_getElem
  · simp
  · intro i h1 h2
    have h3 : i < vs.length := by simpa using h1
    simp [Memory.readBlock, Memory.get_writeBlock, h3]

/-! ### The canonical form -/

theorem cellsFrom_mem {b : Nat} {vs : List F} {c : Nat × F} (h : c ∈ cellsFrom b vs) : b ≤ c.1 ∧ c.1 < b + vs.length := by
  induction vs generalizing b with
  | nil => simp [cellsFrom] at h
  | cons v vs ih =>
    simp only [cellsFrom, List.mem_cons] at h
    rcases h with rfl | h
    · simp
    · have := ih h; simp only [List.length_cons]; omega

theorem cellsFrom_wf (b : Nat) (vs : List F) : Memory.wf (cellsFrom b vs) := by
  induction vs generalizing b with
  | nil => exact List.Pairwise.nil
  | cons v vs ih =>
    refine List.Pairwise.cons ?_ (ih (b + 1))
    intro c hc
    have := cellsFrom_mem hc
    simp only; omega

theorem Memory.wf_nil : Memory.wf [] := List.Pairwise.nil

/-- Writing a block keeps the canonical form. -/
theorem Memory.wf_writeBlock {m : Memory} (h : m.wf) (b : Nat) (vs : List F) : (m.writeBlock b vs).wf := by
  cases vs with
  | nil => exact h
  | cons v vs =>
    simp only [Memory.writeBlock]
    refine List.pairwise_append.2 ⟨List.pairwise_append.2 ⟨List.Pairwise.filter _ h, cellsFrom_wf _ _, ?_⟩,
      List.Pairwise.filter _ h, ?_⟩
    · intro c hc d hd
      have h1 : c.1 < b := by simpa using (List.mem_filter.1 hc).2
      have h2 := (cellsFrom_mem hd).1
      omega
    · intro c hc d hd
      have h1 : b + (vs.length + 1) ≤ d.1 := by simpa using (List.mem_filter.1 hd).2
      rcases List.mem_append.1 hc with hc | hc
      · have h2 : c.1 < b := by simpa using (List.mem_filter.1 hc).2
        omega
      · have h2 := (cellsFrom_mem hc).2
        simp only [List.length_cons] at h2
        omega

theorem Memory.below_nil (n : Nat) : Memory.below n [] := by simp [Memory.below]

/-- Writing a block inside the first `n` cells lists no cell beyond them. -/
theorem Memory.below_writeBlock {m : Memory} {n : Nat} (h : m.below n) (b : Nat) (vs : List F)
    (hb : vs = [] ∨ b + vs.length ≤ n) : (m.writeBlock b vs).below n := by
  cases vs with
  | nil => exact h
  | cons v vs =>
    have hb' : b + (vs.length + 1) ≤ n := by simpa using hb
    intro c hc
    simp only [Memory.writeBlock, List.mem_append] at hc
    rcases hc with (hc | hc) | hc
    · exact h c (List.mem_filter.1 hc).1
    · have := (cellsFrom_mem hc).2
      simp only [List.length_cons] at this
      omega
    · exact h c (List.mem_filter.1 hc).1

theorem Memory.mem_of_read? {m : Memory} {a : Nat} {v : F} (h : Memory.read? m a = some v) : ∃ c ∈ m, c.1 = a := by
  induction m with
  | nil => simp [Memory.read?] at h
  | cons e m ih =>
    by_cases he : e.1 = a
    · exact ⟨e, by simp, he⟩
    · simp only [Memory.read?, he, if_false] at h
      obtain ⟨f, hf, hfa⟩ := ih h
      exact ⟨f, by simp [hf], hfa⟩

/-- In the canonical form two memories that hold the same written values are the same list. -/
theorem Memory.eq_of_read? {m k : Memory} (hm : Memory.wf m) (hk : Memory.wf k)
    (h : ∀ a, Memory.read? m a = Memory.read? k a) : m = k := by
  induction m generalizing k with
  | nil =>
    cases k with
    | nil => rfl
    | cons c k => simpa [Memory.read?] using h c.1
  | cons c m ih =>
    have hc := List.pairwise_cons.1 hm
    cases k with
    | nil => simpa [Memory.read?] using h c.1
    | cons d k =>
      have hd := List.pairwise_cons.1 hk
      have hcd : c.1 = d.1 := by
        by_contra hne
        have h1 := h c.1
        have h2 := h d.1
        simp only [Memory.read?, if_true, hne, Ne.symm hne, if_false] at h1 h2
        obtain ⟨e, he, hea⟩ := Memory.mem_of_read? h1.symm
        obtain ⟨f, hf, hfa⟩ := Memory.mem_of_read? h2
        have := hd.1 e he
        have := hc.1 f hf
        omega
      have hcd' : c = d := Prod.ext hcd (by simpa [Memory.read?, hcd] using h c.1)
      subst hcd'
      congr 1
      refine ih hc.2 hd.2 fun a => ?_
      by_cases ha : c.1 = a
      · have none_of : ∀ {m : Memory}, (∀ e ∈ m, c.1 < e.1) → Memory.read? m a = none := by
          intro m hlt
          by_contra hne
          obtain ⟨v, hv⟩ := Option.ne_none_iff_exists'.1 hne
          obtain ⟨e, he, hea⟩ := Memory.mem_of_read? hv
          have := hlt e he
          omega
        rw [none_of hc.1, none_of hd.1]
      · simpa [Memory.read?, ha] using h a

/-- Writing a block and then the block that follows it is writing them as one block. -/
theorem Memory.writeBlock_writeBlock_append {m : Memory} (hm : m.wf) (a : Nat) (xs ys : List F) :
    (m.writeBlock a xs).writeBlock (a + xs.length) ys = m.writeBlock a (xs ++ ys) := by
  refine Memory.eq_of_read? (Memory.wf_writeBlock (Memory.wf_writeBlock hm _ _) _ _) (Memory.wf_writeBlock hm _ _) fun c => ?_
  simp only [Memory.read?_writeBlock, List.length_append]
  by_cases h1 : a + xs.length ≤ c ∧ c < a + xs.length + ys.length
  · have h2 : a ≤ c ∧ c < a + (xs.length + ys.length) := by omega
    rw [if_pos h1, if_pos h2, List.getElem?_append_right (by omega)]
    congr 1; omega
  · rw [if_neg h1]
    by_cases h3 : a ≤ c ∧ c < a + xs.length
    · have h2 : a ≤ c ∧ c < a + (xs.length + ys.length) := by omega
      rw [if_pos h3, if_pos h2, List.getElem?_append_left (by omega)]
    · rw [if_neg h3, if_neg (by omega)]

/-- A block written over a block of the same place and length replaces it. -/
theorem Memory.writeBlock_writeBlock_same {m : Memory} (hm : m.wf) (a : Nat) {xs ys : List F} (h : xs.length = ys.length) :
    (m.writeBlock a xs).writeBlock a ys = m.writeBlock a ys := by
  refine Memory.eq_of_read? (Memory.wf_writeBlock (Memory.wf_writeBlock hm _ _) _ _) (Memory.wf_writeBlock hm _ _) fun c => ?_
  simp only [Memory.read?_writeBlock, h]
  split <;> rfl

/-! ### Data memory of the state -/

/-- What a cell of data memory holds after a block write: the block's element inside it, as before outside it. -/
theorem State.readDM_writeBlock (s : State) (b : U32) (vs : List F) (a : Nat) :
    (s.writeBlock b vs).readDM a =
      if b.toNat ≤ a ∧ a < b.toNat + vs.length then vs.getD (a - b.toNat) 0#64 else s.readDM a :=
  Memory.get_writeBlock _ _ _ _ _

@[simp] theorem State.readBlock_length (s : State) (a : U32) (n : Nat) : (s.readBlock a n).length = n := by
  simp [State.readBlock]

theorem State.readBlock_getElem? (s : State) (a : U32) (n i : Nat) (h : i < n) :
    (s.readBlock a n)[i]? = some (s.readDM (a.toNat + i)) :=
  Memory.readBlock_getElem? _ _ _ _ _ h

/-- Reset memory has the canonical form. -/
theorem State.reset_memory_wf : Memory.wf State.reset.dm := Memory.wf_nil

/-- A host write of one cell keeps the canonical form. -/
theorem State.writeBlock_wf {s : State} (h : s.dm.wf) (b : U32) (vs : List F) : (s.writeBlock b vs).dm.wf :=
  Memory.wf_writeBlock h _ _

end Sys2Proof.Machine
end

