-- ==== Sys2Proof/Laws/Ops.lean ====
section
/-! SUPPORT. What each shared operation can do, said once: checks and commands, blocks, the run of a block, the units' own
updates, and the host's transactions. -/

namespace Sys2Proof.Machine

/-! ### Checks and commands -/

/-- No fault: every check passes. -/
theorem firstFault_eq_none (cs : List Check) : firstFault cs = none ↔ ∀ c ∈ cs, c.1 = true := by
  induction cs with
  | nil => simp [firstFault]
  | cons c cs ih => cases h : c.1 <;> simp [firstFault, h, ih]

/-- A fault is that of the first check that does not pass. -/
theorem firstFault_eq_some (cs : List Check) (e : ErrCode) :
    firstFault cs = some e ↔ ∃ pre c post, cs = pre ++ c :: post ∧ (∀ d ∈ pre, d.1 = true) ∧ c.1 = false ∧ c.2 = e := by
  induction cs with
  | nil => simp [firstFault]
  | cons c cs ih =>
    cases h : c.1 with
    | false =>
      simp only [firstFault, h, Bool.false_eq_true, if_false]
      constructor
      · intro he
        exact ⟨[], c, cs, rfl, by simp, h, by simpa using he⟩
      · rintro ⟨pre, d, post, heq, hpre, hd, rfl⟩
        cases pre with
        | nil => simp only [List.nil_append, List.cons.injEq] at heq; rw [heq.1]
        | cons p pre =>
          simp only [List.cons_append, List.cons.injEq] at heq
          have := hpre p (by simp)
          simp [← heq.1, h] at this
    | true =>
      simp only [firstFault, h, if_true, ih]
      constructor
      · rintro ⟨pre, d, post, rfl, hpre, hd⟩
        exact ⟨c :: pre, d, post, rfl, by simpa [h] using hpre, hd⟩
      · rintro ⟨pre, d, post, heq, hpre, hd, he⟩
        cases pre with
        | nil =>
          simp only [List.nil_append, List.cons.injEq] at heq
          simp [heq.1, hd] at h
        | cons p pre =>
          simp only [List.cons_append, List.cons.injEq] at heq
          exact ⟨pre, d, post, heq.2, fun x hx => hpre x (by simp [hx]), hd, he⟩

/-- A command's outcome is always a next state: a fault recorded, or its effect. -/
theorem command_cases (i : Instr) (checks : List Check) (s : State) (effect : State → State) :
    (∃ c, firstFault checks = some c ∧ command i checks s effect = .next (faultEntry c (encode i) s)) ∨
      (firstFault checks = none ∧ command i checks s effect = .next (effect s)) := by
  unfold command
  cases h : firstFault checks with
  | none => exact .inr ⟨rfl, rfl⟩
  | some c => exact .inl ⟨c, rfl, rfl⟩

theorem command_of_none {i : Instr} {checks : List Check} {s : State} {effect : State → State}
    (h : firstFault checks = none) : command i checks s effect = .next (effect s) := by simp [command, h]

theorem command_of_some {i : Instr} {checks : List Check} {s : State} {effect : State → State} {c : ErrCode}
    (h : firstFault checks = some c) : command i checks s effect = .next (faultEntry c (encode i) s) := by
  simp [command, h]

/-- What holds of the state with the fault recorded and of the effect holds of a command's next state. -/
theorem command_inv {i : Instr} {checks : List Check} {s t : State} {effect : State → State} {P : State → Prop}
    (h : command i checks s effect = .next t) (hf : ∀ c, P (faultEntry c (encode i) s))
    (he : firstFault checks = none → P (effect s)) : P t := by
  rcases command_cases i checks s effect with ⟨c, _, hc⟩ | ⟨hn, hc⟩ <;> rw [hc] at h <;> cases h
  · exact hf c
  · exact he hn

/-! ### Blocks as sequences -/

theorem at0_map_range (g : Nat → F) (n i : Nat) (h : i < n) : at0 ((List.range n).map g) i = g i := by
  simp [at0, List.getD, h]

theorem at0_of_length_le (v : List F) (i : Nat) (h : v.length ≤ i) : at0 v i = fzero := by
  simp [at0, List.getD, h]

@[simp] theorem zeros_length (n : Nat) : (zeros n).length = n := by simp [zeros]

@[simp] theorem at0_zeros (n i : Nat) : at0 (zeros n) i = fzero := by
  by_cases h : i < n <;> simp [at0, zeros, List.getD, h, fzero]

theorem at0_append (v w : List F) (i : Nat) :
    at0 (v ++ w) i = if i < v.length then at0 v i else at0 w (i - v.length) := by
  simp only [at0, List.getD, List.getElem?_append]
  split <;> rfl

theorem at0_set (v : List F) (i j : Nat) (x : F) :
    at0 (v.set i x) j = if i = j ∧ i < v.length then x else at0 v j := by
  simp only [at0, List.getD, List.getElem?_set]
  by_cases h : i = j
  · subst h
    by_cases hl : i < v.length <;> simp [hl]
  · simp [h]

theorem State.readBlock_eq_map (s : State) (a : U32) (n : Nat) :
    s.readBlock a n = (List.range n).map fun i => s.readDM (a.toNat + i) := rfl

theorem at0_readBlock (s : State) (a : U32) (n i : Nat) (h : i < n) :
    at0 (s.readBlock a n) i = s.readDM (a.toNat + i) := by
  rw [State.readBlock_eq_map, at0_map_range _ _ _ h]

theorem Memory.at0_readBlock (free : Nat → F) (m : Memory) (a n i : Nat) (h : i < n) :
    at0 (Memory.readBlock free m a n) i = Memory.get free m (a + i) := at0_map_range _ _ _ h

/-! ### The run of a block -/

@[simp] theorem runBlock_nil {σ α : Type} (f : σ → F → σ × α) (st : σ) : runBlock f st [] = (st, []) := rfl

@[simp] theorem runBlock_length {σ α : Type} (f : σ → F → σ × α) (st : σ) (xs : List F) :
    (runBlock f st xs).2.length = xs.length := by
  induction xs generalizing st with
  | nil => rfl
  | cons x xs ih => simp [runBlock, ih]

/-- A block run in two parts is the block run whole. -/
theorem runBlock_append {σ α : Type} (f : σ → F → σ × α) (st : σ) (xs ys : List F) :
    runBlock f st (xs ++ ys) =
      ((runBlock f (runBlock f st xs).1 ys).1, (runBlock f st xs).2 ++ (runBlock f (runBlock f st xs).1 ys).2) := by
  induction xs generalizing st with
  | nil => rfl
  | cons x xs ih => simp [runBlock, ih]

/-- A property of the unit that every sample keeps holds after the block. -/
theorem runBlock_inv {σ α : Type} {f : σ → F → σ × α} {P : σ → Prop} (hf : ∀ st x, P st → P (f st x).1) (st : σ)
    (xs : List F) (h : P st) : P (runBlock f st xs).1 := by
  induction xs generalizing st with
  | nil => exact h
  | cons x xs ih => exact ih _ (hf st x h)

/-- A run is described by the unit's states: if `st (i + 1)` and `out i` are what sample `i` gives from `st i`, the run
ends in the last state and puts out the values `out`. -/
theorem runBlock_eq {σ α : Type} {f : σ → F → σ × α} (x : Nat → F) (st : Nat → σ) (out : Nat → α)
    (h : ∀ i, f (st i) (x i) = (st (i + 1), out i)) (n : Nat) :
    runBlock f (st 0) ((List.range n).map x) = (st n, (List.range n).map out) := by
  induction n with
  | zero => rfl
  | succ n ih => simp [List.range_succ, runBlock_append, ih, runBlock, h]

/-! ### Filter sections -/

/-- Reading a section after one has been replaced. -/
theorem State.section_setSection (s : State) (k j : Nat) (b : Biquad) :
    (s.setSection k b).section j = if j = k ∧ k < s.bq.length then b else s.section j := by
  simp only [State.section, State.setSection, State.setBq, List.getD, List.getElem?_set]
  by_cases h : k = j
  · subst h
    by_cases hl : k < s.bq.length <;> simp [hl]
  · simp [h, Ne.symm h]

@[simp] theorem State.setSection_bq_length (s : State) (k : Nat) (b : Biquad) :
    (s.setSection k b).bq.length = s.bq.length := by simp [State.setSection, State.setBq]

@[simp] theorem mapFirst_length (g : Biquad → Biquad) (n : Nat) (bs : List Biquad) :
    (mapFirst g n bs).length = bs.length := by
  induction n generalizing bs with
  | zero => rfl
  | succ n ih => cases bs <;> simp [mapFirst, ih]

/-- Which sections `mapFirst` changes. -/
theorem mapFirst_getElem? (g : Biquad → Biquad) (n : Nat) (bs : List Biquad) (j : Nat) :
    (mapFirst g n bs)[j]? = if j < n then bs[j]?.map g else bs[j]? := by
  induction n generalizing bs j with
  | zero => simp [mapFirst]
  | succ n ih =>
    cases bs with
    | nil => simp [mapFirst]
    | cons b bs => cases j <;> simp [mapFirst, ih]

@[simp] theorem cascade_length (n : Nat) (bs : List Biquad) (v : F) : (cascade n bs v).1.length = bs.length := by
  induction n generalizing bs v with
  | zero => rfl
  | succ n ih => cases bs <;> simp [cascade, ih]

/-- The sections beyond the cascade keep their registers. -/
theorem cascade_drop (n : Nat) (bs : List Biquad) (v : F) : (cascade n bs v).1.drop n = bs.drop n := by
  induction n generalizing bs v with
  | zero => rfl
  | succ n ih => cases bs <;> simp [cascade, ih]

theorem bandCount_toNat (r : U32) : (bandCount r).toNat = max 2 r.toNat := by
  unfold bandCount
  split <;> simp <;> omega

/-! ### The delay line -/

@[simp] theorem DelayLine.setDelay_fs (d : DelayLine) (ms : F) : (d.setDelay ms).fs = d.fs := rfl
@[simp] theorem DelayLine.setDelay_maxms (d : DelayLine) (ms : F) : (d.setDelay ms).maxms = d.maxms := rfl
@[simp] theorem DelayLine.setDelay_len (d : DelayLine) (ms : F) : (d.setDelay ms).len = d.len := rfl
@[simp] theorem DelayLine.setDelay_wr (d : DelayLine) (ms : F) : (d.setDelay ms).wr = d.wr := rfl
@[simp] theorem DelayLine.setDelay_buf (d : DelayLine) (ms : F) : (d.setDelay ms).buf = d.buf := rfl
@[simp] theorem DelayLine.setDelay_ms (d : DelayLine) (ms : F) : (d.setDelay ms).ms = clampF ms fzero d.maxms := rfl
theorem DelayLine.setDelay_frac (d : DelayLine) (ms : F) :
    (d.setDelay ms).frac = fsub (delaySamples (clampF ms fzero d.maxms) d.fs)
      (fofInt (ffloor (delaySamples (clampF ms fzero d.maxms) d.fs))) := by
  simp only [DelayLine.setDelay]

/-- A cursor `k` slots behind `w` in a buffer of `l` slots fits its register. -/
theorem cursor_behind_toNat (w l : U32) (k : Int) (h : l ≠ 0#32) :
    ((BitVec.ofNat 32 ((((w.toNat : Int) + l.toNat - k) % (l.toNat : Int)).toNat)).toNat : Int) =
      ((w.toNat : Int) + l.toNat - k) % (l.toNat : Int) := by
  have h0 : 0 < l.toNat := by
    rcases Nat.eq_zero_or_pos l.toNat with hz | hp
    · exact absurd (BitVec.eq_of_toNat_eq (by simpa using hz)) h
    · exact hp
  have h3 := l.isLt
  have h1 := Int.emod_nonneg ((w.toNat : Int) + l.toNat - k) (show (l.toNat : Int) ≠ 0 by omega)
  have h2 := Int.emod_lt_of_pos ((w.toNat : Int) + l.toNat - k) (show (0 : Int) < l.toNat by omega)
  generalize ((w.toNat : Int) + l.toNat - k) % (l.toNat : Int) = r at *
  rw [BitVec.toNat_ofNat, Nat.mod_eq_of_lt (by omega)]
  omega

/-- Where the read cursor goes: the delay in whole samples behind the write cursor. -/
theorem DelayLine.setDelay_rd (d : DelayLine) (ms : F) (h : d.len ≠ 0#32) :
    ((d.setDelay ms).rd.toNat : Int) =
      ((d.wr.toNat : Int) + d.len.toNat - ffloor (delaySamples (clampF ms fzero d.maxms) d.fs)) % (d.len.toNat : Int) :=
  cursor_behind_toNat _ _ _ h

@[simp] theorem DelayLine.sample_fs (n : DlNeigh) (free : Nat → F) (d : DelayLine) (x : F) :
    (d.sample n free x).1.fs = d.fs := rfl
@[simp] theorem DelayLine.sample_maxms (n : DlNeigh) (free : Nat → F) (d : DelayLine) (x : F) :
    (d.sample n free x).1.maxms = d.maxms := rfl
@[simp] theorem DelayLine.sample_ms (n : DlNeigh) (free : Nat → F) (d : DelayLine) (x : F) :
    (d.sample n free x).1.ms = d.ms := rfl
@[simp] theorem DelayLine.sample_len (n : DlNeigh) (free : Nat → F) (d : DelayLine) (x : F) :
    (d.sample n free x).1.len = d.len := rfl
@[simp] theorem DelayLine.sample_frac (n : DlNeigh) (free : Nat → F) (d : DelayLine) (x : F) :
    (d.sample n free x).1.frac = d.frac := rfl
@[simp] theorem DelayLine.sample_buf (n : DlNeigh) (free : Nat → F) (d : DelayLine) (x : F) :
    (d.sample n free x).1.buf = d.buf.writeBlock d.wr.toNat [x] := rfl

/-- The cursors advance by one, inside the buffer. -/
theorem DelayLine.sample_cursors (n : DlNeigh) (free : Nat → F) (d : DelayLine) (x : F) (h : d.len ≠ 0#32) :
    (d.sample n free x).1.wr.toNat = (d.wr.toNat + 1) % d.len.toNat ∧
      (d.sample n free x).1.rd.toNat = (d.rd.toNat + 1) % d.len.toNat := by
  have h0 : 0 < d.len.toNat := by
    rcases Nat.eq_zero_or_pos d.len.toNat with hz | hp
    · exact absurd (BitVec.eq_of_toNat_eq (by simpa using hz)) h
    · exact hp
  have h3 := d.len.isLt
  have h1 := Nat.mod_lt (d.wr.toNat + 1) h0
  have h2 := Nat.mod_lt (d.rd.toNat + 1) h0
  simp only [DelayLine.sample, BitVec.toNat_ofNat]
  exact ⟨Nat.mod_eq_of_lt (by omega), Nat.mod_eq_of_lt (by omega)⟩

theorem neighbour_lt (n : DlNeigh) (m rd : Nat) (h : 0 < m) : neighbour n m rd < m := by
  cases n <;> exact Nat.mod_lt _ h

/-! ### Overlap-add -/

@[simp] theorem overlapAdd_fst_length (full ov : List F) (b t : Nat) : (overlapAdd full ov b t).1.length = b := by
  simp [overlapAdd]

@[simp] theorem overlapAdd_snd_length (full ov : List F) (b t : Nat) : (overlapAdd full ov b t).2.length = t := by
  simp [overlapAdd]

/-- The output frame. -/
theorem overlapAdd_fst (full ov : List F) (b t : Nat) :
    (overlapAdd full ov b t).1 =
      (List.range b).map fun n => if n < t then fadd (at0 full n) (at0 ov n) else at0 full n := by
  simp [overlapAdd, ← List.map_take, List.take_range]

/-- The new tail. -/
theorem at0_overlapAdd_snd (full ov : List F) (b t n : Nat) (h : n < t) :
    at0 (overlapAdd full ov b t).2 n =
      if b + n < t then fadd (at0 full (b + n)) (at0 ov (b + n)) else at0 full (b + n) := by
  simp [overlapAdd, at0, List.getD, h]

/-! ### The transform's working arrays -/

@[simp] theorem Work.put_wr_length (w : Work) (i : Nat) (re im : F) : (w.put i re im).wr.length = w.wr.length := by
  simp [Work.put]
@[simp] theorem Work.put_wi_length (w : Work) (i : Nat) (re im : F) : (w.put i re im).wi.length = w.wi.length := by
  simp [Work.put]

theorem Work.at0_put_wr (w : Work) (i j : Nat) (re im : F) :
    at0 (w.put i re im).wr j = if i = j ∧ i < w.wr.length then re else at0 w.wr j := at0_set _ _ _ _
theorem Work.at0_put_wi (w : Work) (i j : Nat) (re im : F) :
    at0 (w.put i re im).wi j = if i = j ∧ i < w.wi.length then im else at0 w.wi j := at0_set _ _ _ _

/-- A property of the working arrays that every round of a loop keeps holds after the loop. -/
theorem foldl_inv {σ α : Type} {f : σ → α → σ} {P : σ → Prop} (hf : ∀ st x, P st → P (f st x)) (st : σ) (xs : List α)
    (h : P st) : P (xs.foldl f st) := by
  induction xs generalizing st with
  | nil => exact h
  | cons x xs ih => exact ih _ (hf st x h)

/-- Both working arrays have `n` entries. -/
abbrev Work.Sized (n : Nat) (w : Work) : Prop := w.wr.length = n ∧ w.wi.length = n

theorem Work.sized_put {n : Nat} {w : Work} (h : w.Sized n) (i : Nat) (re im : F) : (w.put i re im).Sized n := by
  simpa [Work.Sized] using h

theorem bflyPass_sized {n : Nat} {w : Work} (hw : w.Sized n) (h total : Nat) : (bflyPass w h total).Sized n := by
  unfold bflyPass
  refine foldl_inv (P := fun acc : Work × (F × F) => acc.1.Sized n) (fun acc j hacc => ?_) _ _ hw
  exact foldl_inv (P := Work.Sized n) (fun w k hw => Work.sized_put (Work.sized_put hw _ _ _) _ _ _) _ _ hacc

theorem bitReverse_sized {n : Nat} {w : Work} (hw : w.Sized n) (h : Nat) : (bitReverse h w).Sized n := by
  refine foldl_inv (P := Work.Sized n) (fun w i hw => ?_) _ _ hw
  split
  · exact Work.sized_put (Work.sized_put hw _ _ _) _ _ _
  · exact hw

theorem fftStages_sized {n : Nat} {w : Work} (hw : w.Sized n) (h : Nat) : (fftStages h w).Sized n :=
  foldl_inv (P := Work.Sized n) (fun _ _ hw => bflyPass_sized hw _ _) _ _ hw

theorem unpack_sized {n : Nat} {w : Work} (hw : w.Sized n) (h q : Nat) : (unpack h q w).Sized n := by
  have h1 : ((List.range (q - 1)).foldl (fun w k => unpackAt h w (k + 1)) w).Sized n :=
    foldl_inv (P := Work.Sized n)
      (fun _ _ hw => Work.sized_put (Work.sized_put (Work.sized_put (Work.sized_put hw _ _ _) _ _ _) _ _ _) _ _ _) _ _ hw
  simpa [unpack, unpackEnds, Work.Sized] using h1

/-- A forward transform of size `n` gives `n` real and `n` imaginary values. -/
theorem fftFwd_sized (n : Nat) (x : List F) : (fftFwd n x).Sized n := by
  refine bflyPass_sized (unpack_sized (fftStages_sized (bitReverse_sized ?_ _) _) _ _) _ _
  constructor <;> simp [packReal] <;> omega

@[simp] theorem fftInv_length (n : Nat) (re im : List F) : (fftInv n re im).length = n := by simp [fftInv]

/-! ### Host transactions -/

/-- What `HostCommand` does, case by case (48_system.md R504). -/
theorem hostCommand_cases (w : CmdWord) (s : State) :
    (s.halt = true ∧ w = 0x01000000#32 ∧ hostCommand w s = exec .sysClrerr s) ∨
    (s.halt = true ∧ w = 0x02000000#32 ∧ hostCommand w s = exec .sysReset s) ∨
    (s.halt = true ∧ w ≠ 0x01000000#32 ∧ w ≠ 0x02000000#32 ∧ hostCommand w s = .next s) ∨
    (s.halt = false ∧ (∃ e, decode w = .error e) ∧ hostCommand w s = .next (faultEntry .illegal w s)) ∨
    (s.halt = false ∧ ∃ i, decode w = .ok i ∧ hostCommand w s = exec i s) := by
  unfold hostCommand
  cases hh : s.halt with
  | true =>
    by_cases h1 : w = 0x01000000#32
    · simp [h1]
    · by_cases h2 : w = 0x02000000#32 <;> simp [h1, h2]
  | false => cases hd : decode w <;> simp

theorem hostWriteReg_cmd (v : BitVec 64) (s : State) : hostWriteReg 0x010 v s = hostCommand (v.setWidth 32) s := rfl

theorem hostWriteReg_other {slot : Nat} (h : slot ≠ 0x010) (v : BitVec 64) (s : State) :
    hostWriteReg slot v s = .next (s.writeSlot slot v) := by simp [hostWriteReg, h]

/-! ### Reset with parameters -/

@[simp] theorem State.resetWith_params (p : Params) : (State.resetWith p).params = p := rfl

theorem State.reset_eq : State.reset = State.resetWith Params.default := rfl

/-! ### Configured functions -/

/-- A configured result is the draw or the nearest F value; the latter only where the draw does not keep the bound. -/
theorem settle_cases (ulpt : Rat) (e : Option Enclosure) (draw : F) :
    settle ulpt e draw = draw ∨ ∃ x, e = some x ∧ x.admits ulpt draw = false ∧ settle ulpt e draw = x.nearest := by
  cases e with
  | none => exact .inl rfl
  | some x =>
    cases h : x.admits ulpt draw
    · exact .inr ⟨x, rfl, h, by simp [settle, h]⟩
    · exact .inl (by simp [settle, h])

end Sys2Proof.Machine
end

