-- ==== Sys2Proof/Laws/Delay.lean ====
section
/-! SUPPORT. Setting the delay of a configured delay line: the delay in samples stays finite and not below zero, so that the
fraction and the cursors stay in their ranges (42_delay_line.md R260, R263). -/

namespace Sys2Proof.Machine

/-- A product with a positive rate grows with its other factor. -/
theorem fmul_up {c m fs : F} (hfs : isfinite fs = true) (hfs0 : flt fzero fs = true) (hm : isfinite m = true)
    (hc0 : fle fzero c = true) (hcm : fle c m = true) (hfin : isfinite (fmul m fs) = true) :
    isfinite (fmul c fs) = true ∧ 0 ≤ fval (fmul c fs) ∧ fmag (fmul c fs) ≤ fmag (fmul m fs) := by
  have nm := isNaN_of_isfinite hm
  have nfs := isNaN_of_isfinite hfs
  have nc : isNaN c = false := by cases hn : isNaN c <;> simp_all [fle]
  rw [fle_iff isNaN_fzero nc, fkey_le_iff, fval_fzero] at hc0
  rw [fle_iff nc nm] at hcm
  rw [flt_iff isNaN_fzero nfs, fkey_lt_iff, fval_fzero] at hfs0
  have hcm' := (fkey_le_iff c m).1 hcm
  have hm0 : 0 ≤ fval m := by omega
  have sfs : fneg? fs = false := by
    cases hn : fneg? fs
    · rfl
    · unfold fval at hfs0
      rw [if_pos hn] at hfs0
      omega
  have hmag : fmag c ≤ fmag m := by
    rcases nonneg_cases hc0 with h1 | h1
    · rcases nonneg_cases hm0 with h2 | h2
      · unfold fkey at hcm
        rw [h1, h2] at hcm
        simpa using hcm
      · unfold fkey at hcm
        rw [h1, h2] at hcm
        simp at hcm
        omega
    · omega
  have cfin : isfinite c = true := by
    simp [isfinite] at hm ⊢
    omega
  have hs : fscaled c ≤ fscaled m := by
    rw [fscaled_eq, fscaled_eq]
    exact magValue_strictMono.le_iff_le.2 hmag
  rw [fmul_of_finite hm hfs] at hfin ⊢
  rw [fmul_of_finite cfin hfs]
  have hmono : roundMag (fscaled c * fscaled fs) fUnit ≤ roundMag (fscaled m * fscaled fs) fUnit :=
    roundMag_mono fUnit_pos fUnit_pos (Nat.mul_le_mul_right _ (Nat.mul_le_mul_right _ hs))
  refine ⟨?_, ?_, by simpa using hmono⟩
  · rw [isfinite, fmag_roundF, decide_eq_true_eq] at hfin ⊢
    omega
  · apply roundF_nonneg fUnit_pos
    rcases nonneg_cases hc0 with h1 | h1
    · left
      rw [h1, sfs]
      rfl
    · right
      rw [(fscaled_eq_zero c).2 (by simp [isZero, h1]), Nat.zero_mul]

/-- A delay between zero and the greatest delay is a finite number of samples, not below zero. -/
theorem delaySamples_range {c m fs : F} (hfs : isfinite fs = true) (hfs0 : flt fzero fs = true) (hm : isfinite m = true)
    (hc0 : fle fzero c = true) (hcm : fle c m = true) (hfin : isfinite (delaySamples m fs) = true) :
    isfinite (delaySamples c fs) = true ∧ 0 ≤ fval (delaySamples c fs) := by
  have k1 : isfinite (fofNat 1000) = true := by decide +kernel
  have k2 : isZero (fofNat 1000) = false := by decide +kernel
  have k3 : fneg? (fofNat 1000) = false := by decide +kernel
  have k4 : 0 < fscaled (fofNat 1000) := by decide +kernel
  unfold delaySamples at hfin ⊢
  have hmul : isfinite (fmul m fs) = true := by
    rcases fclass (fmul m fs) with h | h | h
    · rw [fdiv, h.1] at hfin
      simpa using isNaN_of_isfinite hfin
    · rw [fdiv, h.1, h.2.1, isNaN_of_isfinite k1, isInf_of_isfinite k1] at hfin
      simp [isfinite, fmag_fpack _ fInfMag_lt] at hfin
    · exact h.2.2
  obtain ⟨a1, a2, a3⟩ := fmul_up hfs hfs0 hm hc0 hcm hmul
  rw [fdiv_of_finite hmul k1 k2] at hfin
  rw [fdiv_of_finite a1 k1 k2]
  have hs : fscaled (fmul c fs) ≤ fscaled (fmul m fs) := by
    rw [fscaled_eq, fscaled_eq]
    exact magValue_strictMono.le_iff_le.2 a3
  have hmono : roundMag (fscaled (fmul c fs) * fUnit) (fscaled (fofNat 1000)) ≤
      roundMag (fscaled (fmul m fs) * fUnit) (fscaled (fofNat 1000)) :=
    roundMag_mono k4 k4 (Nat.mul_le_mul_right _ (Nat.mul_le_mul_right _ hs))
  constructor
  · rw [isfinite, fmag_roundF, decide_eq_true_eq] at hfin ⊢
    omega
  · apply roundF_nonneg k4
    rcases nonneg_cases a2 with h1 | h1
    · left
      rw [h1, k3]
      rfl
    · right
      rw [(fscaled_eq_zero _).2 (by simp [isZero, h1]), Nat.zero_mul]

/-- Setting a delay that is not a NaN keeps a configured delay line inside its ranges. -/
theorem DelayLine.setDelay_inv {p : Params} {d : DelayLine} {ms : F} (hms : isNaN ms = false) (hp : 0 < d.len.toNat)
    (hb : Memory.Holds p.dlMax d.len.toNat d.buf) (hl : ispow2 d.len.toNat = true ∧ d.len.toNat ≤ p.dlMax)
    (hw : d.wr.toNat < d.len.toNat) (hr : isfinite d.fs = true ∧ flt fzero d.fs = true)
    (hlim : isfinite d.maxms = true ∧ fle fzero d.maxms = true ∧
      isfinite (fdiv (fmul d.maxms d.fs) (fofNat 1000)) = true) : (d.setDelay ms).Inv p := by
  have hne : d.len ≠ 0#32 := by
    intro h
    rw [h] at hp
    simp at hp
  obtain ⟨c0, cm⟩ := clampF_range hms hlim.2.1
  obtain ⟨s1, s2⟩ := delaySamples_range hr.1 hr.2 hlim.1 c0 cm hlim.2.2
  obtain ⟨f1, f2⟩ := fraction_range s1 s2
  refine ⟨hb, fun _ => hl, fun _ => ⟨hw, ?_⟩, fun _ => hr, fun _ => hlim, fun _ => ⟨c0, cm⟩, fun _ => ?_⟩
  · have h1 := DelayLine.setDelay_rd d ms hne
    have h2 := Int.emod_lt_of_pos
      ((d.wr.toNat : Int) + d.len.toNat - ffloor (delaySamples (clampF ms fzero d.maxms) d.fs))
      (show (0 : Int) < (d.len.toNat : Int) by omega)
    rw [← h1] at h2
    rw [DelayLine.setDelay_len]
    omega
  · rw [DelayLine.setDelay_frac]
    have n1 := isNaN_of_isfinite f1
    have k : fval fone = fUnit := by decide +kernel
    have hU : (0 : Int) < (fUnit : Int) := Int.natCast_pos.2 fUnit_pos
    rw [fle_iff isNaN_fzero n1, flt_iff n1 (by decide), fkey_le_iff, fkey_lt_iff, f2, k, fval_fzero]
    exact ⟨Int.emod_nonneg _ hU.ne', Int.emod_lt_of_pos _ hU⟩

end Sys2Proof.Machine
end

