-- ==== Sys2Proof/Laws/PerInstr.lean ====
section
/-! SUPPORT. The fixed bits of every command's word: the `mask` and `match` columns of the opcode table (30_encoding.md R145). -/

namespace Sys2Proof.Laws.RowBits

/-- The bits of its word that a command's row fixes: all of them, but for the `idx` field of the rows that use it and the low
four mode bits of `SVF.PROC` (30_encoding.md R142, R143). -/
def fixedBits : Instr → CmdWord
  | .sysNop => 0xFFFFFFFF#32
  | .sysClrerr => 0xFFFFFFFF#32
  | .sysReset => 0xFFFFFFFF#32
  | .dftInit => 0xFFFFFFFF#32
  | .dftFwd => 0xFFFFFFFF#32
  | .dftInv => 0xFFFFFFFF#32
  | .fftInit => 0xFFFFFFFF#32
  | .fftFwd => 0xFFFFFFFF#32
  | .fftInv => 0xFFFFFFFF#32
  | .winSetRect => 0xFFFFFFFF#32
  | .winSetHann => 0xFFFFFFFF#32
  | .winSetHamm => 0xFFFFFFFF#32
  | .winSetBlack => 0xFFFFFFFF#32
  | .winProc => 0xFFFFFFFF#32
  | .dlInit => 0xFFFFFFFF#32
  | .dlSetdelay => 0xFFFFFFFF#32
  | .dlProc => 0xFFFFFFFF#32
  | .dlClear => 0xFFFFFFFF#32
  | .spDesignLp => 0xFFFFFFFF#32
  | .spDesignHp => 0xFFFFFFFF#32
  | .spProc => 0xFFFFFFFF#32
  | .spReset => 0xFFFFFFFF#32
  | .bqDesignLp _ => 0xFFFF00FF#32
  | .bqDesignHp _ => 0xFFFF00FF#32
  | .bqDesignBp _ => 0xFFFF00FF#32
  | .bqDesignAp _ => 0xFFFF00FF#32
  | .bqDesignNotch _ => 0xFFFF00FF#32
  | .bqDesignPeak _ => 0xFFFF00FF#32
  | .bqDesignLs _ => 0xFFFF00FF#32
  | .bqDesignHs _ => 0xFFFF00FF#32
  | .bqCustom _ => 0xFFFF00FF#32
  | .bqProc _ => 0xFFFF00FF#32
  | .bqReset _ => 0xFFFF00FF#32
  | .svfDesign => 0xFFFFFFFF#32
  | .svfProc _ => 0xFFF0FFFF#32
  | .svfReset => 0xFFFFFFFF#32
  | .cbInit => 0xFFFFFFFF#32
  | .cbDesignFb => 0xFFFFFFFF#32
  | .cbDesignFf => 0xFFFFFFFF#32
  | .cbDesignAp => 0xFFFFFFFF#32
  | .cbProc => 0xFFFFFFFF#32
  | .cbReset => 0xFFFFFFFF#32
  | .cvInit => 0xFFFFFFFF#32
  | .cvProc => 0xFFFFFFFF#32
  | .cvReset => 0xFFFFFFFF#32
  | .fcInit => 0xFFFFFFFF#32
  | .fcProc => 0xFFFFFFFF#32
  | .fcReset => 0xFFFFFFFF#32
  | .wsDesignLp => 0xFFFFFFFF#32
  | .wsDesignHp => 0xFFFFFFFF#32
  | .wsDesignBr => 0xFFFFFFFF#32
  | .wsDesignBp => 0xFFFFFFFF#32
  | .cuDesignLin => 0xFFFFFFFF#32
  | .cuDesignDb => 0xFFFFFFFF#32
  | .peqInit => 0xFFFFFFFF#32
  | .peqSetband _ => 0xFFFF00FF#32
  | .peqProc => 0xFFFFFFFF#32
  | .peqReset => 0xFFFFFFFF#32

/-- What a command's row fixes those bits to. -/
def fixedValue : Instr → CmdWord
  | .sysNop => 0x00000000#32
  | .sysClrerr => 0x01000000#32
  | .sysReset => 0x02000000#32
  | .dftInit => 0x10000000#32
  | .dftFwd => 0x11000000#32
  | .dftInv => 0x12000000#32
  | .fftInit => 0x14000000#32
  | .fftFwd => 0x15000000#32
  | .fftInv => 0x16000000#32
  | .winSetRect => 0x20000000#32
  | .winSetHann => 0x20010000#32
  | .winSetHamm => 0x20020000#32
  | .winSetBlack => 0x20030000#32
  | .winProc => 0x21000000#32
  | .dlInit => 0x30000000#32
  | .dlSetdelay => 0x31000000#32
  | .dlProc => 0x32000000#32
  | .dlClear => 0x33000000#32
  | .spDesignLp => 0x40000000#32
  | .spDesignHp => 0x40010000#32
  | .spProc => 0x41000000#32
  | .spReset => 0x42000000#32
  | .bqDesignLp _ => 0x50000000#32
  | .bqDesignHp _ => 0x50010000#32
  | .bqDesignBp _ => 0x50020000#32
  | .bqDesignAp _ => 0x50030000#32
  | .bqDesignNotch _ => 0x50040000#32
  | .bqDesignPeak _ => 0x50050000#32
  | .bqDesignLs _ => 0x50060000#32
  | .bqDesignHs _ => 0x50070000#32
  | .bqCustom _ => 0x51000000#32
  | .bqProc _ => 0x52000000#32
  | .bqReset _ => 0x53000000#32
  | .svfDesign => 0x60000000#32
  | .svfProc _ => 0x61000000#32
  | .svfReset => 0x62000000#32
  | .cbInit => 0x70000000#32
  | .cbDesignFb => 0x71000000#32
  | .cbDesignFf => 0x71010000#32
  | .cbDesignAp => 0x71020000#32
  | .cbProc => 0x72000000#32
  | .cbReset => 0x73000000#32
  | .cvInit => 0x80000000#32
  | .cvProc => 0x81000000#32
  | .cvReset => 0x82000000#32
  | .fcInit => 0x90000000#32
  | .fcProc => 0x91000000#32
  | .fcReset => 0x92000000#32
  | .wsDesignLp => 0xA0000000#32
  | .wsDesignHp => 0xA0010000#32
  | .wsDesignBr => 0xA0020000#32
  | .wsDesignBp => 0xA0030000#32
  | .cuDesignLin => 0xB0000000#32
  | .cuDesignDb => 0xB0010000#32
  | .peqInit => 0xC0000000#32
  | .peqSetband _ => 0xC1000000#32
  | .peqProc => 0xC2000000#32
  | .peqReset => 0xC3000000#32

/-- The word of a well-formed command carries its row's fixed bits. -/
def Statement (i : Instr) : Prop := i.wf = true → encode i &&& fixedBits i = fixedValue i

theorem sysNop : Statement .sysNop := fun _ => rfl
theorem sysClrerr : Statement .sysClrerr := fun _ => rfl
theorem sysReset : Statement .sysReset := fun _ => rfl
theorem dftInit : Statement .dftInit := fun _ => rfl
theorem dftFwd : Statement .dftFwd := fun _ => rfl
theorem dftInv : Statement .dftInv := fun _ => rfl
theorem fftInit : Statement .fftInit := fun _ => rfl
theorem fftFwd : Statement .fftFwd := fun _ => rfl
theorem fftInv : Statement .fftInv := fun _ => rfl
theorem winSetRect : Statement .winSetRect := fun _ => rfl
theorem winSetHann : Statement .winSetHann := fun _ => rfl
theorem winSetHamm : Statement .winSetHamm := fun _ => rfl
theorem winSetBlack : Statement .winSetBlack := fun _ => rfl
theorem winProc : Statement .winProc := fun _ => rfl
theorem dlInit : Statement .dlInit := fun _ => rfl
theorem dlSetdelay : Statement .dlSetdelay := fun _ => rfl
theorem dlProc : Statement .dlProc := fun _ => rfl
theorem dlClear : Statement .dlClear := fun _ => rfl
theorem spDesignLp : Statement .spDesignLp := fun _ => rfl
theorem spDesignHp : Statement .spDesignHp := fun _ => rfl
theorem spProc : Statement .spProc := fun _ => rfl
theorem spReset : Statement .spReset := fun _ => rfl
theorem bqDesignLp (sect : Nat) : Statement (.bqDesignLp sect) := by
  have all : ∀ k : Fin 256, encode (.bqDesignLp k.1) &&& 0xFFFF00FF#32 = 0x50000000#32 := by decide +kernel
  exact fun h => all ⟨sect, of_decide_eq_true h⟩
theorem bqDesignHp (sect : Nat) : Statement (.bqDesignHp sect) := by
  have all : ∀ k : Fin 256, encode (.bqDesignHp k.1) &&& 0xFFFF00FF#32 = 0x50010000#32 := by decide +kernel
  exact fun h => all ⟨sect, of_decide_eq_true h⟩
theorem bqDesignBp (sect : Nat) : Statement (.bqDesignBp sect) := by
  have all : ∀ k : Fin 256, encode (.bqDesignBp k.1) &&& 0xFFFF00FF#32 = 0x50020000#32 := by decide +kernel
  exact fun h => all ⟨sect, of_decide_eq_true h⟩
theorem bqDesignAp (sect : Nat) : Statement (.bqDesignAp sect) := by
  have all : ∀ k : Fin 256, encode (.bqDesignAp k.1) &&& 0xFFFF00FF#32 = 0x50030000#32 := by decide +kernel
  exact fun h => all ⟨sect, of_decide_eq_true h⟩
theorem bqDesignNotch (sect : Nat) : Statement (.bqDesignNotch sect) := by
  have all : ∀ k : Fin 256, encode (.bqDesignNotch k.1) &&& 0xFFFF00FF#32 = 0x50040000#32 := by decide +kernel
  exact fun h => all ⟨sect, of_decide_eq_true h⟩
theorem bqDesignPeak (sect : Nat) : Statement (.bqDesignPeak sect) := by
  have all : ∀ k : Fin 256, encode (.bqDesignPeak k.1) &&& 0xFFFF00FF#32 = 0x50050000#32 := by decide +kernel
  exact fun h => all ⟨sect, of_decide_eq_true h⟩
theorem bqDesignLs (sect : Nat) : Statement (.bqDesignLs sect) := by
  have all : ∀ k : Fin 256, encode (.bqDesignLs k.1) &&& 0xFFFF00FF#32 = 0x50060000#32 := by decide +kernel
  exact fun h => all ⟨sect, of_decide_eq_true h⟩
theorem bqDesignHs (sect : Nat) : Statement (.bqDesignHs sect) := by
  have all : ∀ k : Fin 256, encode (.bqDesignHs k.1) &&& 0xFFFF00FF#32 = 0x50070000#32 := by decide +kernel
  exact fun h => all ⟨sect, of_decide_eq_true h⟩
theorem bqCustom (sect : Nat) : Statement (.bqCustom sect) := by
  have all : ∀ k : Fin 256, encode (.bqCustom k.1) &&& 0xFFFF00FF#32 = 0x51000000#32 := by decide +kernel
  exact fun h => all ⟨sect, of_decide_eq_true h⟩
theorem bqProc (sect : Nat) : Statement (.bqProc sect) := by
  have all : ∀ k : Fin 256, encode (.bqProc k.1) &&& 0xFFFF00FF#32 = 0x52000000#32 := by decide +kernel
  exact fun h => all ⟨sect, of_decide_eq_true h⟩
theorem bqReset (sect : Nat) : Statement (.bqReset sect) := by
  have all : ∀ k : Fin 256, encode (.bqReset k.1) &&& 0xFFFF00FF#32 = 0x53000000#32 := by decide +kernel
  exact fun h => all ⟨sect, of_decide_eq_true h⟩
theorem svfDesign : Statement .svfDesign := fun _ => rfl
theorem svfProc (mask : Nat) : Statement (.svfProc mask) := by
  have all : ∀ m : Fin 16, encode (.svfProc m.1) &&& 0xFFF0FFFF#32 = 0x61000000#32 := by decide +kernel
  exact fun h => all ⟨mask, of_decide_eq_true h⟩
theorem svfReset : Statement .svfReset := fun _ => rfl
theorem cbInit : Statement .cbInit := fun _ => rfl
theorem cbDesignFb : Statement .cbDesignFb := fun _ => rfl
theorem cbDesignFf : Statement .cbDesignFf := fun _ => rfl
theorem cbDesignAp : Statement .cbDesignAp := fun _ => rfl
theorem cbProc : Statement .cbProc := fun _ => rfl
theorem cbReset : Statement .cbReset := fun _ => rfl
theorem cvInit : Statement .cvInit := fun _ => rfl
theorem cvProc : Statement .cvProc := fun _ => rfl
theorem cvReset : Statement .cvReset := fun _ => rfl
theorem fcInit : Statement .fcInit := fun _ => rfl
theorem fcProc : Statement .fcProc := fun _ => rfl
theorem fcReset : Statement .fcReset := fun _ => rfl
theorem wsDesignLp : Statement .wsDesignLp := fun _ => rfl
theorem wsDesignHp : Statement .wsDesignHp := fun _ => rfl
theorem wsDesignBr : Statement .wsDesignBr := fun _ => rfl
theorem wsDesignBp : Statement .wsDesignBp := fun _ => rfl
theorem cuDesignLin : Statement .cuDesignLin := fun _ => rfl
theorem cuDesignDb : Statement .cuDesignDb := fun _ => rfl
theorem peqInit : Statement .peqInit := fun _ => rfl
theorem peqSetband (band : Nat) : Statement (.peqSetband band) := by
  have all : ∀ k : Fin 256, encode (.peqSetband k.1) &&& 0xFFFF00FF#32 = 0xC1000000#32 := by decide +kernel
  exact fun h => all ⟨band, of_decide_eq_true h⟩
theorem peqProc : Statement .peqProc := fun _ => rfl
theorem peqReset : Statement .peqReset := fun _ => rfl

end Sys2Proof.Laws.RowBits
end

