-- ==== Sys2Proof/Machine/Script.lean ====
section
/-! DEFINITION. Host scripts: the transactions that the lines and pseudo-instructions of 30_encoding.md R146 and R147 stand for.
A float operand is its bit pattern. -/

namespace Sys2Proof.Machine

/-- The slot of a register (10_state.md R40, R46). -/
def Reg.slot : Reg → Nat
  | .r i => i
  | .f i => 0x008 + i
  | .cmd => 0x010
  | .status => 0x011
  | .errcode => 0x012
  | .errcmd => 0x013
  | .id => 0x014
  | .cap i => 0x018 + i
  | .dftN => 0x020
  | .fftN => 0x021
  | .winType => 0x024
  | .winLen => 0x025
  | .dlFs => 0x028
  | .dlMaxms => 0x029
  | .dlMs => 0x02A
  | .dlLen => 0x02B
  | .dlWr => 0x02C
  | .dlRd => 0x02D
  | .dlFrac => 0x02E
  | .spA0 => 0x030
  | .spA1 => 0x031
  | .spB1 => 0x032
  | .spX1 => 0x033
  | .spY1 => 0x034
  | .svF => 0x038
  | .svQ => 0x039
  | .svX1 => 0x03A
  | .svX2 => 0x03B
  | .cbMode => 0x040
  | .cbGain => 0x041
  | .cbX1 => 0x042
  | .cbY1 => 0x043
  | .cvFrame => 0x048
  | .cvIrlen => 0x049
  | .fcFrame => 0x04C
  | .fcIrlen => 0x04D
  | .fcN => 0x04E
  | .peqFs => 0x050
  | .peqNb => 0x051
  | .bq s j => 0x100 + 16 * s + j

/-- `wr r<i>, <integer>`. -/
def scriptWr (i : Nat) (v : BitVec 64) : List HostEvent := [.writeReg i v]
/-- `wf f<i>, <float>`. -/
def scriptWf (i : Nat) (v : F) : List HostEvent := [.writeReg (8 + i) v]
/-- `ws <name>, <value>`. -/
def scriptWs (reg : Reg) (v : BitVec 64) : List HostEvent := [.writeReg reg.slot v]
/-- `rs <name>`. -/
def scriptRs (reg : Reg) : List HostEvent := [.readReg reg.slot]
/-- `wd <addr>, <float>`. -/
def scriptWd (a : Nat) (v : F) : List HostEvent := [.writeDM a v]
/-- `rd <addr>`. -/
def scriptRd (a : Nat) : List HostEvent := [.readDM a]
/-- `<MNEMONIC> [s=<n>] [b=<n>] [m=<n>]`. -/
def scriptCmd (i : Instr) : List HostEvent := [.command (encode i)]

/-- `wdm <addr>, <v0>, ..., <vk>` (30_encoding.md R147). -/
def scriptWdm : Nat → List F → List HostEvent
  | _, [] => []
  | a, v :: vs => .writeDM a v :: scriptWdm (a + 1) vs
/-- `fill <addr>, <n>, <v>` (30_encoding.md R147). -/
def scriptFill (a n : Nat) (v : F) : List HostEvent := scriptWdm a (List.replicate n v)
/-- `rdm <addr>, <n>` (30_encoding.md R147). -/
def scriptRdm (a n : Nat) : List HostEvent := (List.range n).map fun i => .readDM (a + i)
/-- `SVF.PROC.HP` (30_encoding.md R147). -/
def scriptSvfHp : List HostEvent := scriptCmd (.svfProc 0b0001)
/-- `SVF.PROC.BP` (30_encoding.md R147). -/
def scriptSvfBp : List HostEvent := scriptCmd (.svfProc 0b0010)
/-- `SVF.PROC.LP` (30_encoding.md R147). -/
def scriptSvfLp : List HostEvent := scriptCmd (.svfProc 0b0100)
/-- `SVF.PROC.BR` (30_encoding.md R147). -/
def scriptSvfBr : List HostEvent := scriptCmd (.svfProc 0b1000)
/-- `SVF.PROC.ALL` (30_encoding.md R147). -/
def scriptSvfAll : List HostEvent := scriptCmd (.svfProc 0b1111)

end Sys2Proof.Machine
end

