-- ==== Sys2Proof/Tests/Slice0.lean ====
section
/-! SUPPORT. Tests of the model. Expected values are those of spec/95_test_vectors.md (its section is named) or hand
calculation from the rules; the witnesses at the end meet the hypotheses of the obligations. -/

namespace Sys2Proof.Tests

set_option Elab.async false

open Sys2Proof.Machine

/-! ### Helpers -/

/-- The state a command leads to (every command completes). -/
def after (i : Instr) (s : State) : State :=
  match exec i s with
  | .next t => t
  | _ => s

/-- The cells `a` to `a + n - 1` of a memory, where written. -/
def cells (m : Memory) (a n : Nat) : List (Option F) := (List.range n).map fun i => m.read? (a + i)

/-- All of `vs`, written. -/
def written (vs : List F) : List (Option F) := vs.map some

/-- The reset state with data memory `dm` and the given argument registers. -/
def start (dm : Memory) (r : IntArgs) (f : FloatArgs) : State := { State.reset with dm := dm, r := r, f := f }

/-- Float arguments, the last ones `+0.0`. -/
def floats (a b c d : F) : FloatArgs := ⟨a, b, c, d, 0#64, 0#64, 0#64, 0#64⟩

/-- Integer arguments, the last ones 0. -/
def ints (a b c d : U32) : IntArgs := ⟨a, b, c, d, 0#32, 0#32, 0#32, 0#32⟩

/-! ### Well-formedness (30_encoding.md R142, R143) -/

theorem test_wf_refuses_wide_sect : (Instr.bqProc 256).wf = false := by decide
theorem test_wf_refuses_wide_band : (Instr.peqSetband 256).wf = false := by decide
theorem test_wf_refuses_wide_mask : (Instr.svfProc 16).wf = false := by decide
theorem test_wf_accepts_widest : (Instr.bqProc 255).wf ∧ (Instr.peqSetband 255).wf ∧ (Instr.svfProc 15).wf := by decide

/-! ### Decoding: a word of every row, written out from the opcode map (30_encoding.md R145) -/

theorem test_decode_sys :
    [0x00000000#32, 0x01000000#32, 0x02000000#32].map decode =
      [.ok .sysNop, .ok .sysClrerr, .ok .sysReset] := by decide
theorem test_decode_dft :
    [0x10000000#32, 0x11000000#32, 0x12000000#32].map decode =
      [.ok .dftInit, .ok .dftFwd, .ok .dftInv] := by decide
theorem test_decode_fft :
    [0x14000000#32, 0x15000000#32, 0x16000000#32].map decode =
      [.ok .fftInit, .ok .fftFwd, .ok .fftInv] := by decide
theorem test_decode_win :
    [0x20000000#32, 0x20010000#32, 0x20020000#32, 0x20030000#32, 0x21000000#32].map decode =
      [.ok .winSetRect, .ok .winSetHann, .ok .winSetHamm, .ok .winSetBlack, .ok .winProc] := by decide
theorem test_decode_dl :
    [0x30000000#32, 0x31000000#32, 0x32000000#32, 0x33000000#32].map decode =
      [.ok .dlInit, .ok .dlSetdelay, .ok .dlProc, .ok .dlClear] := by decide
theorem test_decode_sp :
    [0x40000000#32, 0x40010000#32, 0x41000000#32, 0x42000000#32].map decode =
      [.ok .spDesignLp, .ok .spDesignHp, .ok .spProc, .ok .spReset] := by decide
theorem test_decode_bq :
    [0x50000000#32, 0x50010100#32, 0x50020200#32, 0x50030300#32, 0x50040400#32, 0x50050700#32, 0x50060800#32, 0x50072F00#32, 0x51005500#32, 0x5200AA00#32, 0x5300FF00#32].map decode =
      [.ok (.bqDesignLp 0), .ok (.bqDesignHp 1), .ok (.bqDesignBp 2), .ok (.bqDesignAp 3), .ok (.bqDesignNotch 4), .ok (.bqDesignPeak 7), .ok (.bqDesignLs 8), .ok (.bqDesignHs 47), .ok (.bqCustom 85), .ok (.bqProc 170), .ok (.bqReset 255)] := by decide
theorem test_decode_svf :
    [0x60000000#32, 0x610A0000#32, 0x62000000#32].map decode =
      [.ok .svfDesign, .ok (.svfProc 10), .ok .svfReset] := by decide
theorem test_decode_cb :
    [0x70000000#32, 0x71000000#32, 0x71010000#32, 0x71020000#32, 0x72000000#32, 0x73000000#32].map decode =
      [.ok .cbInit, .ok .cbDesignFb, .ok .cbDesignFf, .ok .cbDesignAp, .ok .cbProc, .ok .cbReset] := by decide
theorem test_decode_cv :
    [0x80000000#32, 0x81000000#32, 0x82000000#32].map decode =
      [.ok .cvInit, .ok .cvProc, .ok .cvReset] := by decide
theorem test_decode_fc :
    [0x90000000#32, 0x91000000#32, 0x92000000#32].map decode =
      [.ok .fcInit, .ok .fcProc, .ok .fcReset] := by decide
theorem test_decode_ws :
    [0xA0000000#32, 0xA0010000#32, 0xA0020000#32, 0xA0030000#32].map decode =
      [.ok .wsDesignLp, .ok .wsDesignHp, .ok .wsDesignBr, .ok .wsDesignBp] := by decide
theorem test_decode_cu :
    [0xB0000000#32, 0xB0010000#32].map decode =
      [.ok .cuDesignLin, .ok .cuDesignDb] := by decide
theorem test_decode_peq :
    [0xC0000000#32, 0xC1000100#32, 0xC2000000#32, 0xC3000000#32].map decode =
      [.ok .peqInit, .ok (.peqSetband 1), .ok .peqProc, .ok .peqReset] := by decide

/-- The illegal words of 95_test_vectors.md section 10.1. -/
theorem test_illegal_words :
    [0x03000000#32, 0x13000000#32, 0xFFFFFFFF#32, 0x20040000#32, 0x50080000#32, 0x61100000#32, 0x71030000#32, 0xA0040000#32,
      0xB0020000#32, 0x15000001#32, 0x00000001#32, 0x15000100#32, 0xC2000100#32, 0x15010000#32, 0x610F0100#32].map decode? =
      List.replicate 15 none := by decide

theorem test_reject_names :
    decode 0x03000000#32 = .error .reservedOpcode ∧ decode 0x15010000#32 = .error .reservedMode ∧
      decode 0x15000100#32 = .error .unusedIdx ∧ decode 0x15000001#32 = .error .nonzeroZero := by decide

theorem test_table_word : decodeTableWord 32 0x50070700 = some (.bqDesignHs 7) ∧ decodeTableWord 32 0x61100000 = none := by
  decide

/-! ### Tables (95_test_vectors.md section 2.1) -/

theorem test_dft_table_3 :
    [dftC 3 0, dftC 3 1, dftC 3 2, dftS 3 0, dftS 3 1, dftS 3 2] =
      [0x3FF0000000000000#64, 0xBFE0000000000000#64, 0xBFE0000000000000#64, 0#64, 0x3FEBB67AE8584CAA#64,
        0xBFEBB67AE8584CAA#64] := by decide +kernel

theorem test_twiddle_rom :
    [twC 1, twS 1, twC 2, twS 2, twC 4, twS 4, twC 8, twS 8, twC 16, twS 16] =
      [0xBFF0000000000000#64, 0#64, 0#64, 0x3FF0000000000000#64, 0x3FE6A09E667F3BCD#64, 0x3FE6A09E667F3BCD#64,
        0x3FED906BCF328D46#64, 0x3FD87DE2A6AEA963#64, 0x3FEF6297CFF75CB0#64, 0x3FC8F8B83C69A60B#64] := by decide +kernel

/-! ### SYS -/

theorem test_sys_nop : after .sysNop State.reset = State.reset := by decide +kernel
theorem test_sys_clrerr :
    after .sysClrerr { State.reset with halt := true, errcode := 4#8, errcmd := 0x15000000#32 } = State.reset := by
  decide +kernel
theorem test_sys_reset :
    after .sysReset (start [(5, 7#64)] (ints 1#32 2#32 3#32 4#32) (floats 1#64 2#64 3#64 4#64)) =
      { State.reset with dm := [(5, 7#64)] } := by decide +kernel

/-! ### XF (95_test_vectors.md sections 2.2 to 2.4) -/

theorem test_dft_init :
    (after .dftInit (start [] (ints 0#32 0#32 64#32 0#32) (floats 0x0000000000000000#64 0x0000000000000000#64 0x0000000000000000#64 0x0000000000000000#64))).dftN = 64#32 ∧ (after .dftInit (start [] (ints 0#32 0#32 65#32 0#32) (floats 0x0000000000000000#64 0x0000000000000000#64 0x0000000000000000#64 0x0000000000000000#64))).errcode = 3#8 := by decide +kernel
theorem test_dft_fwd :
    cells (after .dftFwd { (start (cellsFrom 0 [0x3FF0000000000000#64, 0x4000000000000000#64, 0x4008000000000000#64, 0x4010000000000000#64]) (ints 0#32 16#32 32#32 0#32) (floats 0x0000000000000000#64 0x0000000000000000#64 0x0000000000000000#64 0x0000000000000000#64)) with dftN := 4#32 }).dm 16 4 = written [0x4024000000000000#64, 0xC000000000000000#64, 0xC000000000000000#64, 0xC000000000000000#64] ∧
      cells (after .dftFwd { (start (cellsFrom 0 [0x3FF0000000000000#64, 0x4000000000000000#64, 0x4008000000000000#64, 0x4010000000000000#64]) (ints 0#32 16#32 32#32 0#32) (floats 0x0000000000000000#64 0x0000000000000000#64 0x0000000000000000#64 0x0000000000000000#64)) with dftN := 4#32 }).dm 32 4 = written [0x0000000000000000#64, 0x4000000000000000#64, 0x0000000000000000#64, 0xC000000000000000#64] := by decide +kernel
theorem test_dft_inv :
    cells (after .dftInv { (start (cellsFrom 16 [0x4024000000000000#64, 0xC000000000000000#64, 0xC000000000000000#64, 0xC000000000000000#64] ++ cellsFrom 32 [0x0000000000000000#64, 0x4000000000000000#64, 0x0000000000000000#64, 0xC000000000000000#64]) (ints 48#32 16#32 32#32 0#32) (floats 0x0000000000000000#64 0x0000000000000000#64 0x0000000000000000#64 0x0000000000000000#64)) with dftN := 4#32 }).dm 48 4 = written [0x3FF0000000000000#64, 0x4000000000000000#64, 0x4008000000000000#64, 0x4010000000000000#64] := by decide +kernel
theorem test_fft_init :
    [0#32, 2#32, 4#32, 6#32, 4096#32, 8192#32].map (fun n => (after .fftInit (start [] (ints 0#32 0#32 n 0#32) (floats 0#64 0#64 0#64 0#64))).fftN) =
      [0#32, 0#32, 4#32, 0#32, 4096#32, 0#32] := by decide +kernel
theorem test_fft_fwd :
    cells (after .fftFwd { (start (cellsFrom 0 [0x3FF0000000000000#64, 0x4000000000000000#64, 0x4008000000000000#64, 0x4010000000000000#64, 0x4014000000000000#64, 0x4018000000000000#64, 0x401C000000000000#64, 0x4020000000000000#64]) (ints 0#32 16#32 32#32 0#32) (floats 0x0000000000000000#64 0x0000000000000000#64 0x0000000000000000#64 0x0000000000000000#64)) with fftN := 8#32 }).dm 16 8 = written [0x4042000000000000#64, 0xC010000000000000#64, 0xC010000000000000#64, 0xC010000000000000#64, 0xC010000000000000#64, 0xC010000000000000#64, 0xC010000000000000#64, 0xC010000000000000#64] ∧
      cells (after .fftFwd { (start (cellsFrom 0 [0x3FF0000000000000#64, 0x4000000000000000#64, 0x4008000000000000#64, 0x4010000000000000#64, 0x4014000000000000#64, 0x4018000000000000#64, 0x401C000000000000#64, 0x4020000000000000#64]) (ints 0#32 16#32 32#32 0#32) (floats 0x0000000000000000#64 0x0000000000000000#64 0x0000000000000000#64 0x0000000000000000#64)) with fftN := 8#32 }).dm 32 8 = written [0x0000000000000000#64, 0x4023504F333F9DE6#64, 0x4010000000000001#64, 0x3FFA827999FCEF38#64, 0x0000000000000000#64, 0xBFFA827999FCEF34#64, 0xC010000000000001#64, 0xC023504F333F9DE7#64] := by decide +kernel
/-- The imaginary block lands over the real one where the two are the same block (section 2.5). -/
theorem test_fft_fwd_overlap :
    cells (after .fftFwd { (start (cellsFrom 0 [0x3FF0000000000000#64, 0x4000000000000000#64, 0x4008000000000000#64, 0x4010000000000000#64]) (ints 0#32 0#32 0#32 0#32) (floats 0x0000000000000000#64 0x0000000000000000#64 0x0000000000000000#64 0x0000000000000000#64)) with fftN := 4#32 }).dm 0 4 = written [0x0000000000000000#64, 0x4000000000000000#64, 0x0000000000000000#64, 0xC000000000000000#64] := by decide +kernel
/-- Bins above `N/2` are ignored, even a NaN (section 2.4). -/
theorem test_fft_inv :
    cells (after .fftInv { (start (cellsFrom 16 [0x4024000000000000#64, 0xC000000000000000#64, 0xC000000000000000#64, 0x7FF8000000000000#64] ++ cellsFrom 32 [0x0000000000000000#64, 0x4000000000000000#64, 0x0000000000000000#64, 0x405EC00000000000#64]) (ints 48#32 16#32 32#32 0#32) (floats 0x0000000000000000#64 0x0000000000000000#64 0x0000000000000000#64 0x0000000000000000#64)) with fftN := 4#32 }).dm 48 4 = written [0x3FF0000000000000#64, 0x4000000000000000#64, 0x4008000000000000#64, 0x4010000000000000#64] := by decide +kernel

/-! ### WIN (section 3): what does not pass through `cos` of anything but zero -/

theorem test_win_rect :
    cells (after .winSetRect (start [] (ints 0#32 0#32 5#32 0#32) (floats 0x0000000000000000#64 0x0000000000000000#64 0x0000000000000000#64 0x0000000000000000#64))).win.coef 0 5 = written [0x3FF0000000000000#64, 0x3FF0000000000000#64, 0x3FF0000000000000#64, 0x3FF0000000000000#64, 0x3FF0000000000000#64] ∧ (after .winSetRect (start [] (ints 0#32 0#32 5#32 0#32) (floats 0x0000000000000000#64 0x0000000000000000#64 0x0000000000000000#64 0x0000000000000000#64))).win.kind = 0#32 := by decide +kernel
theorem test_win_hann :
    (after .winSetHann (start [] (ints 0#32 0#32 5#32 0#32) (floats 0x0000000000000000#64 0x0000000000000000#64 0x0000000000000000#64 0x0000000000000000#64))).win.kind = 1#32 ∧ (after .winSetHann (start [] (ints 0#32 0#32 5#32 0#32) (floats 0x0000000000000000#64 0x0000000000000000#64 0x0000000000000000#64 0x0000000000000000#64))).win.len = 5#32 ∧
      (after .winSetHann (start [] (ints 0#32 0#32 5#32 0#32) (floats 0x0000000000000000#64 0x0000000000000000#64 0x0000000000000000#64 0x0000000000000000#64))).win.coef.read? 0 = some 0x0000000000000000#64 ∧ (after .winSetHann (start [] (ints 0#32 0#32 1#32 0#32) (floats 0x0000000000000000#64 0x0000000000000000#64 0x0000000000000000#64 0x0000000000000000#64))).errcode = 3#8 := by decide +kernel
theorem test_win_hamm :
    (after .winSetHamm (start [] (ints 0#32 0#32 5#32 0#32) (floats 0x0000000000000000#64 0x0000000000000000#64 0x0000000000000000#64 0x0000000000000000#64))).win.kind = 2#32 ∧ (after .winSetHamm (start [] (ints 0#32 0#32 5#32 0#32) (floats 0x0000000000000000#64 0x0000000000000000#64 0x0000000000000000#64 0x0000000000000000#64))).win.len = 5#32 ∧
      (after .winSetHamm (start [] (ints 0#32 0#32 5#32 0#32) (floats 0x0000000000000000#64 0x0000000000000000#64 0x0000000000000000#64 0x0000000000000000#64))).win.coef.read? 0 = some 0x3FB47AE147AE147C#64 ∧ (after .winSetHamm (start [] (ints 0#32 0#32 1#32 0#32) (floats 0x0000000000000000#64 0x0000000000000000#64 0x0000000000000000#64 0x0000000000000000#64))).errcode = 3#8 := by decide +kernel
theorem test_win_black :
    (after .winSetBlack (start [] (ints 0#32 0#32 5#32 0#32) (floats 0x0000000000000000#64 0x0000000000000000#64 0x0000000000000000#64 0x0000000000000000#64))).win.kind = 3#32 ∧ (after .winSetBlack (start [] (ints 0#32 0#32 5#32 0#32) (floats 0x0000000000000000#64 0x0000000000000000#64 0x0000000000000000#64 0x0000000000000000#64))).win.len = 5#32 ∧
      (after .winSetBlack (start [] (ints 0#32 0#32 5#32 0#32) (floats 0x0000000000000000#64 0x0000000000000000#64 0x0000000000000000#64 0x0000000000000000#64))).win.coef.read? 0 = some 0x3F7C2D27807789C0#64 ∧ (after .winSetBlack (start [] (ints 0#32 0#32 1#32 0#32) (floats 0x0000000000000000#64 0x0000000000000000#64 0x0000000000000000#64 0x0000000000000000#64))).errcode = 3#8 := by decide +kernel
theorem test_win_proc :
    cells (after .winProc { (start (cellsFrom 0 [0x3FF0000000000000#64, 0xC000000000000000#64, 0x400C000000000000#64, 0x8000000000000000#64]) (ints 0#32 8#32 0#32 0#32) (floats 0x0000000000000000#64 0x0000000000000000#64 0x0000000000000000#64 0x0000000000000000#64)) with win := ⟨0#32, 4#32, cellsFrom 0 [0x3FF0000000000000#64, 0x3FF0000000000000#64, 0x3FF0000000000000#64, 0x3FF0000000000000#64]⟩ }).dm 8 4 = written [0x3FF0000000000000#64, 0xC000000000000000#64, 0x400C000000000000#64, 0x8000000000000000#64] := by decide +kernel

/-! ### DL (section 4) -/

/-- The delay line after `DL.INIT` with 1000, 8 and the delay given, a ramp at cell 0. -/
def line (ms : F) : State := after .dlInit (start (cellsFrom 0 [0x3FF0000000000000#64, 0x4000000000000000#64, 0x4008000000000000#64, 0x4010000000000000#64]) (ints 0#32 16#32 4#32 0#32) (floats 0x408F400000000000#64 0x4020000000000000#64 ms 0x3FE0000000000000#64))
theorem test_dl_init :
    (line 0x4004000000000000#64).dl =
      ⟨0x408F400000000000#64, 0x4020000000000000#64, 0x4004000000000000#64, 8#32, 0#32, 6#32, 0x3FE0000000000000#64, cellsFrom 0 (zeros 8)⟩ := by decide +kernel
theorem test_dl_proc :
    cells (after .dlProc (line 0x4004000000000000#64)).dm 16 4 = written [0x0000000000000000#64, 0x3FE0000000000000#64, 0x3FF8000000000000#64, 0x4004000000000000#64] ∧
      ((after .dlProc (line 0x4004000000000000#64)).dl.wr, (after .dlProc (line 0x4004000000000000#64)).dl.rd) = (4#32, 2#32) := by decide +kernel
/-- The delay operand `f2` replaced. -/
def upd (s : State) (ms : F) : State := s.setF { s.f with f2 := ms }
theorem test_dl_setdelay :
    (after .dlSetdelay (upd (line 0x4008000000000000#64) 0xC014000000000000#64)).dl.ms = 0x0000000000000000#64 ∧ (after .dlSetdelay (upd (line 0x4008000000000000#64) 0x4059000000000000#64)).dl.ms = 0x4020000000000000#64 ∧
      (after .dlSetdelay (upd (line 0x4008000000000000#64) 0x3FF0000000000000#64)).dl.rd = 7#32 ∧
      (after .dlSetdelay (upd (line 0x4008000000000000#64) 0x7FF8000000000000#64)).errcode = 6#8 := by decide +kernel
theorem test_dl_clear :
    (after .dlClear (after .dlProc (line 0x4008000000000000#64))).dl.buf = cellsFrom 0 (zeros 8) ∧
      (after .dlClear (after .dlProc (line 0x4008000000000000#64))).dl.wr = 4#32 ∧ (after .dlClear State.reset).errcode = 2#8 := by decide +kernel

/-! ### SP (section 5.1) -/

theorem test_sp_design_lp :
    (after .spDesignLp (start [] (ints 0#32 0#32 0#32 0#32) (floats 0x40E7700000000000#64 0x0000000000000000#64 0x3FF0000000000000#64 0x0000000000000000#64))).sp = ⟨0#64, 0#64, 0x3FF0000000000000#64, 0#64, 0#64⟩ := by decide +kernel
theorem test_sp_design_hp :
    (after .spDesignHp (start [] (ints 0#32 0#32 0#32 0#32) (floats 0x40E7700000000000#64 0x0000000000000000#64 0x3FF0000000000000#64 0x0000000000000000#64))).sp = ⟨0x3FF0000000000000#64, 0xBFF0000000000000#64, 0x3FF0000000000000#64, 0#64, 0#64⟩ := by decide +kernel
theorem test_sp_proc :
    cells (after .spProc { (start (cellsFrom 0 [0x3FF0000000000000#64, 0x3FF0000000000000#64, 0x3FF0000000000000#64, 0x3FF0000000000000#64]) (ints 0#32 8#32 4#32 0#32) (floats 0x0000000000000000#64 0x0000000000000000#64 0x0000000000000000#64 0x0000000000000000#64)) with sp := ⟨0x3FE8000000000000#64, 0xBFE8000000000000#64, 0x3FE0000000000000#64, 0#64, 0#64⟩ }).dm 8 4 = written [0x3FE8000000000000#64, 0x3FD8000000000000#64, 0x3FC8000000000000#64, 0x3FB8000000000000#64] ∧
      ((after .spProc { (start (cellsFrom 0 [0x3FF0000000000000#64, 0x3FF0000000000000#64, 0x3FF0000000000000#64, 0x3FF0000000000000#64]) (ints 0#32 8#32 4#32 0#32) (floats 0x0000000000000000#64 0x0000000000000000#64 0x0000000000000000#64 0x0000000000000000#64)) with sp := ⟨0x3FE8000000000000#64, 0xBFE8000000000000#64, 0x3FE0000000000000#64, 0#64, 0#64⟩ }).sp.x1, (after .spProc { (start (cellsFrom 0 [0x3FF0000000000000#64, 0x3FF0000000000000#64, 0x3FF0000000000000#64, 0x3FF0000000000000#64]) (ints 0#32 8#32 4#32 0#32) (floats 0x0000000000000000#64 0x0000000000000000#64 0x0000000000000000#64 0x0000000000000000#64)) with sp := ⟨0x3FE8000000000000#64, 0xBFE8000000000000#64, 0x3FE0000000000000#64, 0#64, 0#64⟩ }).sp.y1) = (0x3FF0000000000000#64, 0x3FB8000000000000#64) := by decide +kernel
theorem test_sp_reset :
    (after .spReset (after .spProc { (start (cellsFrom 0 [0x3FF0000000000000#64, 0x3FF0000000000000#64, 0x3FF0000000000000#64, 0x3FF0000000000000#64]) (ints 0#32 8#32 4#32 0#32) (floats 0x0000000000000000#64 0x0000000000000000#64 0x0000000000000000#64 0x0000000000000000#64)) with sp := ⟨0x3FE8000000000000#64, 0xBFE8000000000000#64, 0x3FE0000000000000#64, 0#64, 0#64⟩ })).sp = ⟨0x3FE8000000000000#64, 0xBFE8000000000000#64, 0x3FE0000000000000#64, 0#64, 0#64⟩ := by decide +kernel

/-! ### BQ (section 5.2; the designs by hand at `f1 = 0`, where `cw = 1` and `al = 0`) -/

/-- The coefficients of a section. -/
def coefs (s : State) (k : Nat) : List F := [(s.section k).b0, (s.section k).b1, (s.section k).b2, (s.section k).a1, (s.section k).a2]
/-- The state registers of a section. -/
def taps (s : State) (k : Nat) : List F := [(s.section k).x1, (s.section k).x2, (s.section k).y1, (s.section k).y2]
theorem test_bq_design_lp :
    coefs (after (.bqDesignLp 7) (start [] (ints 0#32 0#32 0#32 0#32) (floats 0x40E7700000000000#64 0x0000000000000000#64 0x3FF0000000000000#64 0x0000000000000000#64))) 7 = [0x0000000000000000#64, 0x0000000000000000#64, 0x0000000000000000#64, 0xC000000000000000#64, 0x3FF0000000000000#64] ∧ coefs (after (.bqDesignLp 7) (start [] (ints 0#32 0#32 0#32 0#32) (floats 0x40E7700000000000#64 0x0000000000000000#64 0x3FF0000000000000#64 0x0000000000000000#64))) 6 = [0x3FF0000000000000#64, 0x0000000000000000#64, 0x0000000000000000#64, 0x0000000000000000#64, 0x0000000000000000#64] ∧
      (after (.bqDesignLp 8) (start [] (ints 0#32 0#32 0#32 0#32) (floats 0x40E7700000000000#64 0x0000000000000000#64 0x3FF0000000000000#64 0x0000000000000000#64))).errcode = 5#8 := by decide +kernel
theorem test_bq_design_hp :
    coefs (after (.bqDesignHp 7) (start [] (ints 0#32 0#32 0#32 0#32) (floats 0x40E7700000000000#64 0x0000000000000000#64 0x3FF0000000000000#64 0x0000000000000000#64))) 7 = [0x3FF0000000000000#64, 0xC000000000000000#64, 0x3FF0000000000000#64, 0xC000000000000000#64, 0x3FF0000000000000#64] ∧ coefs (after (.bqDesignHp 7) (start [] (ints 0#32 0#32 0#32 0#32) (floats 0x40E7700000000000#64 0x0000000000000000#64 0x3FF0000000000000#64 0x0000000000000000#64))) 6 = [0x3FF0000000000000#64, 0x0000000000000000#64, 0x0000000000000000#64, 0x0000000000000000#64, 0x0000000000000000#64] ∧
      (after (.bqDesignHp 8) (start [] (ints 0#32 0#32 0#32 0#32) (floats 0x40E7700000000000#64 0x0000000000000000#64 0x3FF0000000000000#64 0x0000000000000000#64))).errcode = 5#8 := by decide +kernel
theorem test_bq_design_bp :
    coefs (after (.bqDesignBp 7) (start [] (ints 0#32 0#32 0#32 0#32) (floats 0x40E7700000000000#64 0x0000000000000000#64 0x3FF0000000000000#64 0x0000000000000000#64))) 7 = [0x0000000000000000#64, 0x0000000000000000#64, 0x8000000000000000#64, 0xC000000000000000#64, 0x3FF0000000000000#64] ∧ coefs (after (.bqDesignBp 7) (start [] (ints 0#32 0#32 0#32 0#32) (floats 0x40E7700000000000#64 0x0000000000000000#64 0x3FF0000000000000#64 0x0000000000000000#64))) 6 = [0x3FF0000000000000#64, 0x0000000000000000#64, 0x0000000000000000#64, 0x0000000000000000#64, 0x0000000000000000#64] ∧
      (after (.bqDesignBp 8) (start [] (ints 0#32 0#32 0#32 0#32) (floats 0x40E7700000000000#64 0x0000000000000000#64 0x3FF0000000000000#64 0x0000000000000000#64))).errcode = 5#8 := by decide +kernel
theorem test_bq_design_ap :
    coefs (after (.bqDesignAp 7) (start [] (ints 0#32 0#32 0#32 0#32) (floats 0x40E7700000000000#64 0x0000000000000000#64 0x3FF0000000000000#64 0x0000000000000000#64))) 7 = [0x3FF0000000000000#64, 0xC000000000000000#64, 0x3FF0000000000000#64, 0xC000000000000000#64, 0x3FF0000000000000#64] ∧ coefs (after (.bqDesignAp 7) (start [] (ints 0#32 0#32 0#32 0#32) (floats 0x40E7700000000000#64 0x0000000000000000#64 0x3FF0000000000000#64 0x0000000000000000#64))) 6 = [0x3FF0000000000000#64, 0x0000000000000000#64, 0x0000000000000000#64, 0x0000000000000000#64, 0x0000000000000000#64] ∧
      (after (.bqDesignAp 8) (start [] (ints 0#32 0#32 0#32 0#32) (floats 0x40E7700000000000#64 0x0000000000000000#64 0x3FF0000000000000#64 0x0000000000000000#64))).errcode = 5#8 := by decide +kernel
theorem test_bq_design_notch :
    coefs (after (.bqDesignNotch 7) (start [] (ints 0#32 0#32 0#32 0#32) (floats 0x40E7700000000000#64 0x0000000000000000#64 0x3FF0000000000000#64 0x0000000000000000#64))) 7 = [0x3FF0000000000000#64, 0xC000000000000000#64, 0x3FF0000000000000#64, 0xC000000000000000#64, 0x3FF0000000000000#64] ∧ coefs (after (.bqDesignNotch 7) (start [] (ints 0#32 0#32 0#32 0#32) (floats 0x40E7700000000000#64 0x0000000000000000#64 0x3FF0000000000000#64 0x0000000000000000#64))) 6 = [0x3FF0000000000000#64, 0x0000000000000000#64, 0x0000000000000000#64, 0x0000000000000000#64, 0x0000000000000000#64] ∧
      (after (.bqDesignNotch 8) (start [] (ints 0#32 0#32 0#32 0#32) (floats 0x40E7700000000000#64 0x0000000000000000#64 0x3FF0000000000000#64 0x0000000000000000#64))).errcode = 5#8 := by decide +kernel
theorem test_bq_design_peak :
    coefs (after (.bqDesignPeak 7) (start [] (ints 0#32 0#32 0#32 0#32) (floats 0x40E7700000000000#64 0x0000000000000000#64 0x3FF0000000000000#64 0x0000000000000000#64))) 7 = [0x3FF0000000000000#64, 0xC000000000000000#64, 0x3FF0000000000000#64, 0xC000000000000000#64, 0x3FF0000000000000#64] ∧ coefs (after (.bqDesignPeak 7) (start [] (ints 0#32 0#32 0#32 0#32) (floats 0x40E7700000000000#64 0x0000000000000000#64 0x3FF0000000000000#64 0x0000000000000000#64))) 6 = [0x3FF0000000000000#64, 0x0000000000000000#64, 0x0000000000000000#64, 0x0000000000000000#64, 0x0000000000000000#64] ∧
      (after (.bqDesignPeak 8) (start [] (ints 0#32 0#32 0#32 0#32) (floats 0x40E7700000000000#64 0x0000000000000000#64 0x3FF0000000000000#64 0x0000000000000000#64))).errcode = 5#8 := by decide +kernel
theorem test_bq_design_ls :
    coefs (after (.bqDesignLs 7) (start [] (ints 0#32 0#32 0#32 0#32) (floats 0x40E7700000000000#64 0x0000000000000000#64 0x3FF0000000000000#64 0x0000000000000000#64))) 7 = [0x3FF0000000000000#64, 0xC000000000000000#64, 0x3FF0000000000000#64, 0xC000000000000000#64, 0x3FF0000000000000#64] ∧ coefs (after (.bqDesignLs 7) (start [] (ints 0#32 0#32 0#32 0#32) (floats 0x40E7700000000000#64 0x0000000000000000#64 0x3FF0000000000000#64 0x0000000000000000#64))) 6 = [0x3FF0000000000000#64, 0x0000000000000000#64, 0x0000000000000000#64, 0x0000000000000000#64, 0x0000000000000000#64] ∧
      (after (.bqDesignLs 8) (start [] (ints 0#32 0#32 0#32 0#32) (floats 0x40E7700000000000#64 0x0000000000000000#64 0x3FF0000000000000#64 0x0000000000000000#64))).errcode = 5#8 := by decide +kernel
theorem test_bq_design_hs :
    coefs (after (.bqDesignHs 7) (start [] (ints 0#32 0#32 0#32 0#32) (floats 0x40E7700000000000#64 0x0000000000000000#64 0x3FF0000000000000#64 0x0000000000000000#64))) 7 = [0x3FF0000000000000#64, 0xC000000000000000#64, 0x3FF0000000000000#64, 0xC000000000000000#64, 0x3FF0000000000000#64] ∧ coefs (after (.bqDesignHs 7) (start [] (ints 0#32 0#32 0#32 0#32) (floats 0x40E7700000000000#64 0x0000000000000000#64 0x3FF0000000000000#64 0x0000000000000000#64))) 6 = [0x3FF0000000000000#64, 0x0000000000000000#64, 0x0000000000000000#64, 0x0000000000000000#64, 0x0000000000000000#64] ∧
      (after (.bqDesignHs 8) (start [] (ints 0#32 0#32 0#32 0#32) (floats 0x40E7700000000000#64 0x0000000000000000#64 0x3FF0000000000000#64 0x0000000000000000#64))).errcode = 5#8 := by decide +kernel
/-- Section 0 after `BQ.CUSTOM` with 2, 1, 0.5, 1, 0, -1 and an impulse at cell 0. -/
def custom : State := after (.bqCustom 0)
  (start (cellsFrom 0 [0x3FF0000000000000#64, 0x0000000000000000#64, 0x0000000000000000#64, 0x0000000000000000#64]) (ints 0#32 8#32 4#32 0#32) ⟨0x4000000000000000#64, 0x3FF0000000000000#64, 0x3FE0000000000000#64, 0x3FF0000000000000#64, 0x0000000000000000#64, 0xBFF0000000000000#64, 0#64, 0#64⟩)
theorem test_bq_custom :
    coefs custom 0 = [0x3FE0000000000000#64, 0x0000000000000000#64, 0xBFE0000000000000#64, 0x3FE0000000000000#64, 0x3FD0000000000000#64] := by decide +kernel
theorem test_bq_proc :
    cells (after (.bqProc 0) custom).dm 8 4 = written [0x3FE0000000000000#64, 0xBFD0000000000000#64, 0xBFE0000000000000#64, 0x3FD4000000000000#64] ∧ taps (after (.bqProc 0) custom) 0 = [0x0000000000000000#64, 0x0000000000000000#64, 0x3FD4000000000000#64, 0xBFE0000000000000#64] := by decide +kernel
theorem test_bq_reset :
    taps (after (.bqReset 0) (after (.bqProc 0) custom)) 0 = [0x0000000000000000#64, 0x0000000000000000#64, 0x0000000000000000#64, 0x0000000000000000#64] ∧ coefs (after (.bqReset 0) custom) 0 = coefs custom 0 := by decide +kernel

/-! ### SVF (section 5.4) -/

theorem test_svf_design :
    (after .svfDesign (start [] (ints 0#32 0#32 0#32 0#32) (floats 0x40E7700000000000#64 0x0000000000000000#64 0x4000000000000000#64 0x0000000000000000#64))).svf = ⟨0#64, 0x3FE0000000000000#64, 0#64, 0#64⟩ := by decide +kernel
/-- The second worked case of section 5.4. -/
def svf : State := { State.reset with dm := cellsFrom 0 [0x3FF0000000000000#64, 0x3FF0000000000000#64, 0x3FF0000000000000#64, 0x3FF0000000000000#64], r := ⟨0#32, 16#32, 4#32, 24#32, 32#32, 40#32, 0#32, 0#32⟩, svf := ⟨0x3FE0000000000000#64, 0x3FF0000000000000#64, 0#64, 0#64⟩ }
theorem test_svf_proc_all :
    cells (after (.svfProc 15) svf).dm 16 4 = written [0x3FF0000000000000#64, 0x3FE0000000000000#64, 0x0000000000000000#64, 0xBFD8000000000000#64] ∧ cells (after (.svfProc 15) svf).dm 24 4 = written [0x3FE0000000000000#64, 0x3FE8000000000000#64, 0x3FE8000000000000#64, 0x3FE2000000000000#64] ∧
      cells (after (.svfProc 15) svf).dm 32 4 = written [0x0000000000000000#64, 0x3FD0000000000000#64, 0x3FE4000000000000#64, 0x3FF0000000000000#64] ∧ cells (after (.svfProc 15) svf).dm 40 4 = written [0x3FF0000000000000#64, 0x3FE8000000000000#64, 0x3FE4000000000000#64, 0x3FE4000000000000#64] := by decide +kernel
theorem test_svf_proc_mask :
    cells (after (.svfProc 5) svf).dm 24 4 = [none, none, none, none] ∧ (after (.svfProc 0) svf).dm = svf.dm ∧
      ((after (.svfProc 0) svf).svf.x1, (after (.svfProc 0) svf).svf.x2) = (0x3FE2000000000000#64, 0x3FF0000000000000#64) := by decide +kernel
theorem test_svf_reset :
    (after .svfReset (after (.svfProc 0) svf)).svf = ⟨0x3FE0000000000000#64, 0x3FF0000000000000#64, 0#64, 0#64⟩ := by decide +kernel

/-! ### CB (section 6.1) -/

/-- The comb after `CB.INIT` with 1000, 8, an impulse at cell 0. -/
def comb : State := after .cbInit (start (cellsFrom 0 [0x3FF0000000000000#64, 0x0000000000000000#64, 0x0000000000000000#64, 0x0000000000000000#64, 0x0000000000000000#64]) (ints 0#32 16#32 5#32 0#32) (floats 0x408F400000000000#64 0x4020000000000000#64 0x4000000000000000#64 0x3FE0000000000000#64))
theorem test_cb_init :
    comb.cb = ⟨1#32, 0#64, 0#64, 0#64⟩ ∧ (comb.dl.len, comb.dl.rd, comb.dl.ms) = (8#32, 0#32, 0#64) := by decide +kernel
theorem test_cb_design_ff :
    ((after .cbDesignFf comb).cb.mode, (after .cbDesignFf comb).cb.gain, (after .cbDesignFf comb).dl.rd) = (1#32, 0x3FE0000000000000#64, 6#32) := by decide +kernel
theorem test_cb_design_fb :
    ((after .cbDesignFb comb).cb.mode, (after .cbDesignFb comb).dl.ms, (after .cbDesignFb comb).dl.rd) = (0#32, 0x3FF0000000000000#64, 7#32) := by decide +kernel
theorem test_cb_design_ap :
    ((after .cbDesignAp comb).cb.mode, (after .cbDesignAp comb).dl.rd) = (2#32, 6#32) := by decide +kernel
theorem test_cb_proc_ff :
    cells (after .cbProc (after .cbDesignFf comb)).dm 16 5 = written [0x3FF0000000000000#64, 0x0000000000000000#64, 0x3FE0000000000000#64, 0x0000000000000000#64, 0x0000000000000000#64] := by decide +kernel
theorem test_cb_proc_fb_ap :
    cells (after .cbProc (after .cbDesignFb comb)).dm 16 5 = written [0x3FF0000000000000#64, 0x0000000000000000#64, 0x3FE0000000000000#64, 0x0000000000000000#64, 0x3FD0000000000000#64] ∧
      cells (after .cbProc (after .cbDesignAp comb)).dm 16 5 = written [0x3FE0000000000000#64, 0x3FE8000000000000#64, 0xBFD8000000000000#64, 0x3FC8000000000000#64, 0xBFB8000000000000#64] := by decide +kernel
theorem test_cb_reset :
    (after .cbReset (after .cbProc (after .cbDesignFb comb))).cb = ⟨0#32, 0x3FE0000000000000#64, 0#64, 0#64⟩ ∧
      (after .cbReset (after .cbProc (after .cbDesignFb comb))).dl.buf = cellsFrom 0 (zeros 8) := by decide +kernel

/-! ### CV and FC (sections 7.1, 7.2) -/

/-- `CV.INIT` with `h = [1, 2, 3, 4, 5]` at cell 8 and `B = 2`, then the frame `[1, 1]` at cell 0. -/
def conv : State :=
  (after .cvInit (start (cellsFrom 0 [0x3FF0000000000000#64, 0x3FF0000000000000#64] ++ cellsFrom 8 [0x3FF0000000000000#64, 0x4000000000000000#64, 0x4008000000000000#64, 0x4010000000000000#64, 0x4014000000000000#64]) (ints 8#32 16#32 2#32 5#32) (floats 0#64 0#64 0#64 0#64))).setR (ints 0#32 16#32 2#32 5#32)
theorem test_cv_init :
    conv.cv = ⟨2#32, 5#32, cellsFrom 0 [0x3FF0000000000000#64, 0x4000000000000000#64, 0x4008000000000000#64, 0x4010000000000000#64, 0x4014000000000000#64], cellsFrom 0 (zeros 4)⟩ := by decide +kernel
theorem test_cv_proc :
    cells (after .cvProc conv).dm 16 2 = written [0x3FF0000000000000#64, 0x4008000000000000#64] ∧ (after .cvProc conv).cv.ov = cellsFrom 0 [0x4014000000000000#64, 0x401C000000000000#64, 0x4022000000000000#64, 0x4014000000000000#64] := by decide +kernel
theorem test_cv_reset :
    (after .cvReset (after .cvProc conv)).cv = conv.cv := by decide +kernel
/-- `FC.INIT` with `h = [2]` at cell 8 and `B = 1`, then the frame `[3]` at cell 0. -/
def fast : State :=
  (after .fcInit (start (cellsFrom 0 [0x4008000000000000#64] ++ cellsFrom 8 [0x4000000000000000#64]) (ints 8#32 16#32 1#32 1#32) (floats 0#64 0#64 0#64 0#64))).setR (ints 0#32 16#32 1#32 1#32)
theorem test_fc_init :
    (fast.fc.frame, fast.fc.irlen, fast.fc.n) = (1#32, 1#32, 4#32) ∧ fast.fc.hr = cellsFrom 0 [0x4000000000000000#64, 0x4000000000000000#64, 0x4000000000000000#64, 0x4000000000000000#64] := by decide +kernel
theorem test_fc_proc :
    cells (after .fcProc fast).dm 16 1 = written [0x4018000000000000#64] := by decide +kernel
/-- An FC unit with a tail. -/
def tailed : State := { fast with fc := ⟨1#32, 3#32, 4#32, [], [], cellsFrom 0 [0x4014000000000000#64, 0x401C000000000000#64]⟩ }
theorem test_fc_reset :
    (after .fcReset tailed).fc = ⟨1#32, 3#32, 4#32, [], [], cellsFrom 0 (zeros 2)⟩ := by decide +kernel

/-! ### WS and CU (sections 8.1, 8.2): what does not pass through `sin` or `cos` -/

theorem test_ws_design_lp :
    (after .wsDesignLp (start [] (ints 0#32 200#32 0#32 0#32) (floats 0x4020000000000000#64 0x3FF0000000000000#64 0x4020000000000000#64 0x4008000000000000#64))).r.r7 = 5#32 ∧ ((after .wsDesignLp (start [] (ints 0#32 65534#32 0#32 0#32) (floats 0x4020000000000000#64 0x3FF0000000000000#64 0x4020000000000000#64 0x4008000000000000#64))).errcode, (after .wsDesignLp (start [] (ints 0#32 65534#32 0#32 0#32) (floats 0x4020000000000000#64 0x3FF0000000000000#64 0x4020000000000000#64 0x4008000000000000#64))).r.r7) = (4#8, 0#32) ∧
      (after .wsDesignLp (start [] (ints 0#32 200#32 0#32 0#32) (floats 0x4020000000000000#64 0x3FF0000000000000#64 0x4044000000000000#64 0x4008000000000000#64))).errcode = 3#8 := by decide +kernel
theorem test_ws_design_hp :
    (after .wsDesignHp (start [] (ints 0#32 200#32 0#32 0#32) (floats 0x4020000000000000#64 0x3FF0000000000000#64 0x4020000000000000#64 0x4008000000000000#64))).r.r7 = 5#32 ∧ ((after .wsDesignHp (start [] (ints 0#32 65534#32 0#32 0#32) (floats 0x4020000000000000#64 0x3FF0000000000000#64 0x4020000000000000#64 0x4008000000000000#64))).errcode, (after .wsDesignHp (start [] (ints 0#32 65534#32 0#32 0#32) (floats 0x4020000000000000#64 0x3FF0000000000000#64 0x4020000000000000#64 0x4008000000000000#64))).r.r7) = (4#8, 0#32) ∧
      (after .wsDesignHp (start [] (ints 0#32 200#32 0#32 0#32) (floats 0x4020000000000000#64 0x3FF0000000000000#64 0x4044000000000000#64 0x4008000000000000#64))).errcode = 3#8 := by decide +kernel
theorem test_ws_design_br :
    (after .wsDesignBr (start [] (ints 0#32 200#32 0#32 0#32) (floats 0x4020000000000000#64 0x3FF0000000000000#64 0x4020000000000000#64 0x4008000000000000#64))).r.r7 = 5#32 ∧ ((after .wsDesignBr (start [] (ints 0#32 65534#32 0#32 0#32) (floats 0x4020000000000000#64 0x3FF0000000000000#64 0x4020000000000000#64 0x4008000000000000#64))).errcode, (after .wsDesignBr (start [] (ints 0#32 65534#32 0#32 0#32) (floats 0x4020000000000000#64 0x3FF0000000000000#64 0x4020000000000000#64 0x4008000000000000#64))).r.r7) = (4#8, 0#32) ∧
      (after .wsDesignBr (start [] (ints 0#32 200#32 0#32 0#32) (floats 0x4020000000000000#64 0x3FF0000000000000#64 0x4044000000000000#64 0x4008000000000000#64))).errcode = 3#8 := by decide +kernel
theorem test_ws_design_bp :
    (after .wsDesignBp (start [] (ints 0#32 200#32 0#32 0#32) (floats 0x4020000000000000#64 0x3FF0000000000000#64 0x4020000000000000#64 0x4008000000000000#64))).r.r7 = 5#32 ∧ ((after .wsDesignBp (start [] (ints 0#32 65534#32 0#32 0#32) (floats 0x4020000000000000#64 0x3FF0000000000000#64 0x4020000000000000#64 0x4008000000000000#64))).errcode, (after .wsDesignBp (start [] (ints 0#32 65534#32 0#32 0#32) (floats 0x4020000000000000#64 0x3FF0000000000000#64 0x4020000000000000#64 0x4008000000000000#64))).r.r7) = (4#8, 0#32) ∧
      (after .wsDesignBp (start [] (ints 0#32 200#32 0#32 0#32) (floats 0x4020000000000000#64 0x3FF0000000000000#64 0x4044000000000000#64 0x4008000000000000#64))).errcode = 3#8 := by decide +kernel
theorem test_cu_design_lin :
    (after .cuDesignLin (start (cellsFrom 0 [0x3FF0000000000000#64, 0x0000000000000000#64, 0x0000000000000000#64]) (ints 0#32 16#32 3#32 0#32) (floats 0x0000000000000000#64 0x0000000000000000#64 0x0000000000000000#64 0x0000000000000000#64))).r.r7 = 4#32 ∧
      (after .cuDesignLin (start (cellsFrom 0 [0x3FF0000000000000#64, 0x0000000000000000#64, 0x0000000000000000#64]) (ints 0#32 16#32 3#32 0#32) (floats 0x0000000000000000#64 0x0000000000000000#64 0x0000000000000000#64 0x0000000000000000#64))).dm.read? 16 = some 0x3F5C2D27807789C0#64 := by decide +kernel
theorem test_cu_design_db :
    (after .cuDesignDb (start (cellsFrom 0 [0x0000000000000000#64, 0x0000000000000000#64, 0x0000000000000000#64]) (ints 0#32 16#32 3#32 0#32) (floats 0x0000000000000000#64 0x0000000000000000#64 0x0000000000000000#64 0x0000000000000000#64))).r.r7 = 4#32 ∧
      (after .cuDesignDb (start (cellsFrom 0 [0x0000000000000000#64, 0x0000000000000000#64, 0x0000000000000000#64]) (ints 0#32 16#32 3#32 0#32) (floats 0x0000000000000000#64 0x0000000000000000#64 0x0000000000000000#64 0x0000000000000000#64))).dm.read? 16 = some 0#64 := by decide +kernel

/-! ### PEQ (section 9.1 and program 2 of section 11) -/

theorem test_peq_init :
    [0#32, 1#32, 3#32, 8#32, 9#32].map (fun n => (after .peqInit (start [] (ints 0#32 0#32 n 0#32) (floats 0x408F400000000000#64 0#64 0#64 0#64))).peq.nb) =
      [2#32, 2#32, 3#32, 8#32, 0#32] := by decide +kernel
/-- Program 2 at its `PEQ.PROC`. -/
def bands : State :=
  { start (cellsFrom 0 [0x3FF0000000000000#64, 0x0000000000000000#64, 0x0000000000000000#64, 0x0000000000000000#64]) (ints 0#32 8#32 4#32 0#32) (floats 0x40E7700000000000#64 0#64 0x3FF0000000000000#64 0#64) with
    peq := ⟨0x408F400000000000#64, 2#32⟩,
    bq := [⟨0x3FF0000000000000#64, 0x3FF0000000000000#64, 0#64, 0#64, 0#64, 0#64, 0#64, 0#64, 0#64⟩, ⟨0x3FF0000000000000#64, 0#64, 0#64, 0xBFE0000000000000#64, 0#64, 0#64, 0#64, 0#64, 0#64⟩] ++
      List.replicate 6 Biquad.flat }
theorem test_peq_proc :
    cells (after .peqProc bands).dm 8 4 = written [0x3FF0000000000000#64, 0x3FF8000000000000#64, 0x3FE8000000000000#64, 0x3FD8000000000000#64] ∧ taps (after .peqProc bands) 1 = [0x0000000000000000#64, 0x0000000000000000#64, 0x3FD8000000000000#64, 0x3FE8000000000000#64] := by decide +kernel
theorem test_peq_setband :
    coefs (after (.peqSetband 1) bands) 1 = [0x3FF0000000000000#64, 0xC000000000000000#64, 0x3FF0000000000000#64, 0xC000000000000000#64, 0x3FF0000000000000#64] ∧ (after (.peqSetband 2) bands).errcode = 5#8 := by decide +kernel
theorem test_peq_reset :
    (after .peqReset (after .peqProc bands)).bq = bands.bq := by decide +kernel

/-! ### Host port, dispatch and faults (sections 10.2, 11) -/

/-- The state after `n` host transactions. -/
def runHost : Nat → State → State
  | 0, s => s
  | n + 1, s => runHost n (match step s with | .next t => t | _ => s)

/-- The first rows of section 10.2: a fault, two dropped commands, register and memory access while halted, the recovery. -/
theorem test_fault_mechanism :
    (runHost 7 { State.reset with host := [.writeReg 0x010 0x03000000#64, .writeReg 0x002 8#64, .command 0x14000000#32,
      .command 0xFFFFFFFF#32, .writeDM 5 0x3FF8000000000000#64, .readReg 0x012, .readReg 0x013] }) =
      { State.reset with
        halt := true, errcode := 1#8, errcmd := 0x03000000#32, r := ints 0#32 0#32 8#32 0#32
        dm := [(5, 0x3FF8000000000000#64)], replies := [0x03000000#64, 1#64] } := by decide +kernel

/-- Reads of the last rows of section 10.2. -/
theorem test_host_reads :
    [0x010, 0x014, 0x016, 0x018, 0x019, 0x01F, 0x400].map State.reset.readSlot =
      [0#64, 0x594F444C#64, 0#64, 65536#64, 4096#64, 8#64, 0#64] ∧ State.reset.hostReadDM 65536 = 0#64 := by decide +kernel

/-- Writes of section 10.2: read-only slots keep their values, a `u32` slot takes bits 31:0. -/
theorem test_host_writes :
    [0x011, 0x012, 0x021, 0x014].map (fun k => State.reset.writeSlot k 9#64) = List.replicate 4 State.reset ∧
      (State.reset.writeSlot 0x000 0x100000005#64).r.r0 = 5#32 ∧ State.reset.hostWriteDM 65536 1#64 = State.reset := by
  decide +kernel

/-- The check order (section 10.2). -/
theorem test_fault_order :
    (after (.peqSetband 200) State.reset).errcode = 2#8 ∧
      (after (.bqProc 9) (start [] (ints 70000#32 0#32 5000#32 0#32) (floats 0#64 0#64 0#64 0#64))).errcode = 5#8 ∧
      (after .dlProc (start [] (ints 0#32 0#32 5000#32 0#32) (floats 0#64 0#64 0#64 0#64))).errcode = 2#8 ∧
      (after .dlProc { start [] (ints 65000#32 0#32 5000#32 0#32) (floats 0#64 0#64 0#64 0#64) with
        dl := { State.reset.dl with len := 8#32 } }).errcode = 3#8 ∧
      (after .dlInit (start [] (ints 0#32 0#32 0#32 0#32) (floats 0x7FF8000000000000#64 0x41CDCD6500000000#64 0#64 0#64))).errcode =
        6#8 := by decide +kernel

/-- A command placed by `withFetchWord` is the next step (00_scope.md R7). -/
theorem test_fetch :
    runHost 1 ((start [] (ints 0#32 0#32 8#32 0#32) (floats 0#64 0#64 0#64 0#64)).withFetchWord 32 0x14000000) =
      (start [] (ints 0#32 0#32 8#32 0#32) (floats 0#64 0#64 0#64 0#64)).setFftN 8#32 := by decide +kernel

/-! ### The accuracy bound of the configured functions (00_scope.md R14 (a)), by hand calculation from the real values -/

/-- `cos(1.0) = 0.54030230586813971740...` lies 0.43 units below `0x3FE14A280FB5068C`, so 0.57 above the value before it. -/
theorem test_bound_three_quarters_of_a_unit :
    [0x3FE14A280FB5068B#64, 0x3FE14A280FB5068C#64, 0x3FE14A280FB5068D#64].map
        (fun v => ((cosEnclosure 1500 0x3FF0000000000000#64).admits (3 / 4) v, (cosEnclosure 1500 0x3FF0000000000000#64).admits (1 / 2) v)) =
      [(true, false), (true, true), (false, false)] := by decide +kernel

/-- `cos(2^-800)` lies just below 1, where the unit is `2^-53`; `exp(2^-800)` just above 1, where it is `2^-52`. -/
theorem test_bound_beside_a_power_of_two :
    [0x3FF0000000000001#64, 0x3FF0000000000000#64, 0x3FEFFFFFFFFFFFFF#64, 0x3FEFFFFFFFFFFFFE#64].map
        (fun v => ((cosEnclosure 1500 0x0DF0000000000000#64).admits 1 v,
          (expEnclosure 1500 (fixOf 1500 0x0DF0000000000000#64)).map fun e => e.admits 1 v)) =
      [(false, some true), (true, some true), (true, some true), (false, some false)] := by decide +kernel

/-- `exp(-1024.0)` lies between zero and the least subnormal: those two are within a unit, the next is not. -/
theorem test_bound_underflow :
    [0#64, 1#64, 2#64, 0x8000000000000001#64].map
        (fun v => (expEnclosure 1500 (fixOf 1500 0xC090000000000000#64)).map fun e => e.admits 1 v) =
      [some true, some true, some false, some false] := by decide +kernel

/-- `exp(-1000000.0)` and `pow10(-500.0)` are far below a hundred-thousandth of the least subnormal, which 0.99999 units
therefore do not reach, and one unit does. -/
theorem test_bound_below_one_unit :
    [99999 / 100000, (1 : Rat)].map (fun u => [0#64, 1#64].map fun v =>
        ((expEnclosure (numScale u) (fixOf (numScale u) 0xC12E848000000000#64)).map fun e => e.admits u v,
          (pow10Enclosure (numScale u) 0xC07F400000000000#64).map fun e => e.admits u v)) =
      [[(some true, some true), (some false, some false)], [(some true, some true), (some true, some true)]] := by
  decide +kernel

/-- `arctan q` lies just below `q = 3·2^-501`: the value one unit above `q` is more than a unit off, the one below is not; and
an angle of about `2^-2074` lies above zero: the least subnormal is within a unit, its negative is not. -/
theorem test_bound_small_angles :
    [0x20B8000000000001#64, 0x20B8000000000000#64, 0x20B7FFFFFFFFFFFF#64, 0x20B7FFFFFFFFFFFE#64].map
        ((atan2Enclosure 1500 0x20B8000000000000#64 0x3FF0000000000000#64).admits 1) = [false, true, true, false] ∧
      [0x8000000000000001#64, 0#64, 1#64, 2#64].map
        ((atan2Enclosure 1500 1#64 0x7E70000000000000#64).admits 1) = [false, true, true, false] := by decide +kernel

/-- `atan2(1.0, -1.0) = 3π/4`, `atan2(-1.0, +0.0) = -π/2`: the F values nearest. -/
theorem test_atan2_nearest :
    (atan2Enclosure 1500 0x3FF0000000000000#64 0xBFF0000000000000#64).nearest = 0x4002D97C7F3321D2#64 ∧
      (atan2Enclosure 1500 0xBFF0000000000000#64 0#64).negate.nearest = 0xBFF921FB54442D18#64 := by decide +kernel

/-! ### Witnesses: states and operands that meet the hypotheses of the obligations

`engine` is a state with every unit configured at small sizes and meeting the invariant. -/

/-- Every unit configured: `DFT_N` 2, `FFT_N` 4, a window of 2, a delay line of 8 slots, frames of 2 with responses of 2, two
bands; eight samples in data memory. -/
def engine : State :=
  { State.reset with
    dftN := 2#32, fftN := 4#32
    win := ⟨0#32, 2#32, cellsFrom 0 [0x3FF0000000000000#64, 0x3FF0000000000000#64]⟩
    dl := ⟨0x408F400000000000#64, 0x4020000000000000#64, 0x4008000000000000#64, 8#32, 0#32, 5#32, 0#64, cellsFrom 0 (zeros 8)⟩
    cv := ⟨2#32, 2#32, cellsFrom 0 (zeros 2), cellsFrom 0 (zeros 1)⟩
    fc := ⟨2#32, 2#32, 4#32, cellsFrom 0 (zeros 4), cellsFrom 0 (zeros 4), cellsFrom 0 (zeros 1)⟩
    peq := ⟨0x40E7700000000000#64, 2#32⟩
    dm := cellsFrom 0 (List.replicate 8 0x3FF0000000000000#64) }

/-- `engine` with `r2 = n`, `f0 = 8`, `f1 = 1000`, `f2 = 4`, `f3 = +0.0`: samples at 0, output blocks at 16 to 40. -/
def ready (n : U32) : State :=
  (engine.setR ⟨0#32, 16#32, n, 2#32, 32#32, 40#32, 0#32, 0#32⟩).setF
    ⟨0x4020000000000000#64, 0x408F400000000000#64, 0x4010000000000000#64, 0#64, 0#64, 0#64, 0#64, 0#64⟩

/-- Every memory of the engine, by computation. -/
theorem engine_memories :
    Memory.Holds 65536 8 engine.dl.buf ∧ Memory.Holds 4096 2 engine.win.coef ∧ Memory.Holds 4096 2 engine.cv.ir ∧
      Memory.Holds 4095 1 engine.cv.ov ∧ Memory.Holds 4096 4 engine.fc.hr ∧ Memory.Holds 4096 4 engine.fc.hi ∧
      Memory.Holds 4095 1 engine.fc.ov ∧ Memory.Holds 65536 0 engine.dm := by
  refine ⟨⟨?_, ?_, ?_⟩, ⟨?_, ?_, ?_⟩, ⟨?_, ?_, ?_⟩, ⟨?_, ?_, ?_⟩, ⟨?_, ?_, ?_⟩, ⟨?_, ?_, ?_⟩, ⟨?_, ?_, ?_⟩, ⟨?_, ?_, ?_⟩⟩ <;>
    first | decide +kernel | (unfold Memory.covers; decide +kernel)

theorem witness_invariant : engine.Inv where
  params := by decide +kernel
  fits := by decide +kernel
  sections := rfl
  record := ⟨rfl, rfl⟩
  dft := by decide +kernel
  fft := fun _ => by decide +kernel
  window := by decide +kernel
  coefficients := engine_memories.2.1
  delayLine :=
    { buffer := engine_memories.1
      length := fun _ => by decide +kernel
      cursors := fun _ => by decide +kernel
      rate := fun _ => by decide +kernel
      limit := fun _ => by decide +kernel
      delay := fun _ => by decide +kernel
      fraction := fun _ => by decide +kernel }
  comb := by decide +kernel
  direct :=
    { sizes := fun _ => by decide +kernel
      response := engine_memories.2.2.1
      tail := engine_memories.2.2.2.1 }
  fast :=
    { sizes := fun _ => by decide +kernel
      transform := fun _ => by decide +kernel
      re := engine_memories.2.2.2.2.1
      im := engine_memories.2.2.2.2.2.1
      tail := engine_memories.2.2.2.2.2.2.1 }
  equaliser := fun _ => by decide +kernel
  data := engine_memories.2.2.2.2.2.2.2

theorem witness_ready_invariant (n : U32) : (ready n).Inv :=
  { params := witness_invariant.params, fits := witness_invariant.fits, sections := rfl, record := ⟨rfl, rfl⟩, dft := witness_invariant.dft,
    fft := witness_invariant.fft, window := witness_invariant.window, coefficients := witness_invariant.coefficients,
    delayLine := witness_invariant.delayLine, comb := witness_invariant.comb, direct := witness_invariant.direct,
    fast := witness_invariant.fast, equaliser := witness_invariant.equaliser, data := witness_invariant.data }

/-- No command but `CU.DESIGN.*` meets a cause of a fault in `ready 4`, nor do those two in `ready 5` (8 values): every
`fault? = none` hypothesis can be met, in a state of the invariant. -/
theorem witness_no_fault :
    (∀ i ∈ [Instr.sysNop, .sysClrerr, .sysReset, .dftInit, .dftFwd, .dftInv, .fftInit, .fftFwd, .fftInv, .winSetRect,
      .winSetHann, .winSetHamm, .winSetBlack, .winProc, .dlInit, .dlSetdelay, .dlProc, .dlClear, .spDesignLp, .spDesignHp,
      .spProc, .spReset, .bqDesignLp 7, .bqDesignHp 7, .bqDesignBp 7, .bqDesignAp 7, .bqDesignNotch 7, .bqDesignPeak 7,
      .bqDesignLs 7, .bqDesignHs 7, .bqCustom 7, .bqProc 7, .bqReset 7, .svfDesign, .svfProc 15, .svfReset, .cbInit,
      .cbDesignFb, .cbDesignFf, .cbDesignAp, .cbProc, .cbReset, .cvInit, .cvProc, .cvReset, .fcInit, .fcProc, .fcReset,
      .wsDesignLp, .wsDesignHp, .wsDesignBr, .wsDesignBp, .peqInit, .peqSetband 1, .peqProc, .peqReset],
      i.fault? (ready 4#32) = none) ∧
    ∀ i ∈ [Instr.cuDesignLin, .cuDesignDb], i.fault? (ready 5#32) = none := by decide +kernel

/-- A command for each class of fault (`faults_follow_the_rules_in_order`), and blocks at the end of data memory: one that
just fits, one a cell further. -/
theorem witness_faults :
    Instr.dftFwd.fault? State.reset = some .notCfg ∧ (Instr.bqProc 8).fault? (ready 4#32) = some .index ∧
      Instr.dlSetdelay.fault? (upd (ready 4#32) 0x7FF8000000000000#64) = some .param ∧
      Instr.dftInit.fault? (ready 65#32) = some .size ∧
      Instr.spProc.fault? ((ready 4#32).setR (ints 65532#32 16#32 4#32 0#32)) = none ∧
      Instr.spProc.fault? ((ready 4#32).setR (ints 65533#32 16#32 4#32 0#32)) = some .addr := by decide +kernel

theorem witness_decode_inverts_encode : (Instr.bqProc 255).wf = true := by decide
theorem witness_legal_word_is_one_command : decode 0x5200FF00#32 = .ok (.bqProc 255) := by decide

/-- A pending command, and the `CMD` write that issues it with high bits set. -/
theorem witness_a_step_runs_the_decoded_command :
    ((ready 4#32).setHost [.command 0x14000000#32]).halt = false ∧ decode 0x14000000#32 = .ok .fftInit ∧
      ((ready 4#32).setHost [.command 0x14000000#32]).host = .command 0x14000000#32 :: [] ∧
      BitVec.setWidth 32 0xFFFFFFFF14000000#64 = 0x14000000#32 := by decide +kernel

theorem witness_an_illegal_word_faults :
    (HostEvent.writeReg 0x010 0x15000001#64).word? = some 0x15000001#32 ∧ ¬ legalWord 0x15000001#32 ∧
      legalWord 0x15000000#32 := by decide

/-- A halted engine, for `a_halted_engine_drops_commands` (its three cases) and `a_recorded_fault_is_kept`. -/
theorem witness_halted :
    (after .dftFwd State.reset).halt = true ∧ (HostEvent.command 0x00000000#32).word? = some 0x00000000#32 ∧
      (HostEvent.command 0x01000000#32).word? = some 0x01000000#32 ∧
      (HostEvent.command 0x02000000#32).word? = some 0x02000000#32 ∧
      (HostEvent.writeReg 0x030 1#64).word? = none ∧
      step ((after .dftFwd State.reset).setHost [.readDM 3]) =
        .next { after .dftFwd State.reset with replies := [State.reset.readDM 3] } := by
  refine ⟨by decide +kernel, by decide, by decide, by decide, by decide, rfl⟩

/-- `host_register_writes`: a slot of each kind at the ends of its range. -/
theorem witness_host_register_writes :
    [0x000, 0x007, 0x008, 0x00F, 0x011, 0x030, 0x034, 0x035, 0x038, 0x03B, 0x041, 0x043, 0x100, 0x178, 0x179].map
        (fun k => (isRwInt k, isRwFloat Params.default k)) =
      [(true, false), (true, false), (false, true), (false, true), (false, false), (false, true), (false, true), (false, false),
        (false, true), (false, true), (false, true), (false, true), (false, true), (false, true), (false, false)] := by decide

/-- Parameters: the defaults, and others at the ends of their ranges that fit the size registers. -/
theorem witness_wf_params :
    (ready 4#32).params.wf = true ∧ (ready 4#32).params.fits = true ∧
      [{ ulpt := 3 / 4 }, { ulpt := 1 / 2, irMax := 2 ^ 32, dftMax := 2 ^ 70, nmax := 2 ^ 31, dmWords := 1, nbq := 2 },
        ({ nbq := 48, dlMax := 1, winMax := 2, nmax := 4 } : Params)].map (fun p => (p.wf, p.fits)) =
        [(true, true), (true, true), (true, true)] := by decide +kernel

/-- `every_step_keeps_the_invariant`, `argument_registers_persist`, `commands_change_only_their_own_unit`: a next state. -/
theorem witness_next : exec .fftInit (ready 4#32) = .next (after .fftInit (ready 4#32)) := rfl
theorem witness_step :
    step ((ready 4#32).setHost [.command 0x14000000#32]) = .next (after .fftInit (ready 4#32)) := rfl

theorem witness_configured_functions :
    isZero 0x8000000000000000#64 = true ∧ isNaN 0x7FF0000000000001#64 = true ∧ isInf 0xFFF0000000000000#64 = true := by
  decide +kernel
theorem witness_integers_convert_exactly :
    (9007199254740992 : Int).natAbs ≤ 2 ^ 53 ∧ (-9007199254740992 : Int).natAbs ≤ 2 ^ 53 ∧
      isfinite 0xBFF8000000000000#64 = true := by decide +kernel

/-- `arithmetic_rounds_to_nearest`: operands of each of its clauses, and of each clause of `RoundsTo`: a finite result, an
overflow, and a tie (`1 + 2^-53`, halfway between 1 and the next value). -/
theorem witness_arithmetic_rounds :
    isfinite 0x3FF0000000000001#64 = true ∧ isZero 0x3CA0000000000000#64 = false ∧
      fval 0x3FF0000000000000#64 + fval 0xBFF0000000000000#64 = 0 ∧
      (fval 0x3FF0000000000000#64 + fval 0x3CA0000000000000#64).natAbs < overflowAt * 1 ∧
      overflowAt * 1 ≤ (fval 0x7FEFFFFFFFFFFFFF#64 + fval 0x7FEFFFFFFFFFFFFF#64).natAbs ∧
      fval 0x3FF0000000000001#64 ≠ fval 0x3FF0000000000000#64 ∧
      (fval 0x3FF0000000000001#64 * (1 : Nat) - (fval 0x3FF0000000000000#64 + fval 0x3CA0000000000000#64)).natAbs =
        (fval 0x3FF0000000000000#64 * (1 : Nat) - (fval 0x3FF0000000000000#64 + fval 0x3CA0000000000000#64)).natAbs ∧
      isNaN 0x7FF8000000000000#64 = true ∧ isInf 0xFFF0000000000000#64 = true ∧ isZero 0x8000000000000000#64 = true ∧
      fneg? 0x4010000000000000#64 = false ∧ fneg? 0xBFF0000000000000#64 = true := by decide +kernel

/-- `transform_sizes`: the ends of each range. -/
theorem witness_transform_sizes :
    ispow2 4 = true ∧ ispow2 4096 = true ∧ ispow2 6 = false ∧ (ready 64#32).params.dftMax = 64 ∧
      (ready 64#32).params.nmax = 4096 := by decide +kernel

/-- `fft_inverse_ignores_upper_bins`: the hypothesis met with a bin above `N/2` changed. -/
theorem witness_upper_bins :
    Instr.fftInv.fault? ((ready 4#32).setR (ints 48#32 0#32 4#32 0#32)) = none ∧
      (List.range 3).all (fun k => Memory.read? (cellsFrom 0 (List.replicate 8 0x3FF0000000000000#64)) k ==
        Memory.read? ((cellsFrom 0 (List.replicate 8 0x3FF0000000000000#64)).writeBlock 3 [0#64]) k) = true := by
  decide +kernel

theorem witness_bit_reversal : 6 < 2 ^ 3 ∧ 0 < 3 ∧ 2 < 3 ∧ 2 ^ 2 ≤ (Work.mk (zeros 4) (zeros 4)).wr.length ∧ 2 ^ 2 ≤ (Work.mk (zeros 4) (zeros 4)).wi.length := by
  decide
theorem witness_butterfly : 2 * 2 * 1 ≤ (Work.mk (zeros 4) (zeros 4)).wr.length ∧ 2 * 2 * 1 ≤ (Work.mk (zeros 4) (zeros 4)).wi.length := by
  decide
theorem witness_unpack : 1 ≤ 2 ∧ (Work.mk (zeros 8) (zeros 8)).wr.length = 4 * 2 ∧ (Work.mk (zeros 8) (zeros 8)).wi.length = 4 * 2 := by
  decide

/-- `delay_line_construction`: a delay below zero, inside the range and beyond it. -/
theorem witness_delay_line_construction :
    [0xC014000000000000#64, 0#64, 0x408F400000000000#64, 0x7FF0000000000000#64].map (fun ms => Instr.dlInit.fault? (upd (ready 4#32) ms)) =
      [none, none, none, none] := by decide +kernel

/-- `whole_delay_is_an_exact_shift`: the delay 3 of `ready`, and the ends 0 and 7 of its range. -/
theorem witness_whole_delay :
    (ready 4#32).dl.rd.toNat = ((ready 4#32).dl.wr.toNat + (ready 4#32).dl.len.toNat - 3) % (ready 4#32).dl.len.toNat ∧
      isZero (ready 4#32).dl.frac = true ∧ cells (ready 4#32).dl.buf 0 8 = written (zeros 8) ∧
      cells (ready 4#32).dm 0 4 = written (List.replicate 4 0x3FF0000000000000#64) ∧
      fmag 0x3FF0000000000000#64 ≤ 0x7FD0000000000000 ∧ (0 + 8 - 0) % 8 = 0 ∧ (0 + 8 - 7) % 8 = 1 := by decide +kernel

theorem witness_filter_designs (s : State) :
    ∃ b1 a0 : F, b1 = nexp s.params (fneg (fdiv (fmul 0x401921FB54442D18#64 s.f.f1) s.f.f0)) ∧
      a0 = fdiv (fadd 0x3FF0000000000000#64 b1) 0x4000000000000000#64 := ⟨_, _, rfl, rfl⟩

theorem witness_biquads : 0 < (ready 4#32).params.nbq ∧ 7 < (ready 4#32).params.nbq := by decide

/-- `zero_gain_is_flat`: `f1 = 0`, where `cw = 1` and `al = 0`. -/
theorem witness_zero_gain :
    isZero 0#64 = true ∧
      (bqPre Params.default 0x40E7700000000000#64 0#64 0x3FF0000000000000#64 0#64).cw = 0x3FF0000000000000#64 ∧
      isfinite (bqPre Params.default 0x40E7700000000000#64 0#64 0x3FF0000000000000#64 0#64).al = true ∧
      isfinite (fadd 0x3FF0000000000000#64 (bqPre Params.default 0x40E7700000000000#64 0#64 0x3FF0000000000000#64 0#64).al) = true ∧
      isZero (fadd 0x3FF0000000000000#64 (bqPre Params.default 0x40E7700000000000#64 0#64 0x3FF0000000000000#64 0#64).al) = false ∧
      isfinite (fadd 0x4000000000000000#64 (fmul 0x4000000000000000#64
        (bqPre Params.default 0x40E7700000000000#64 0#64 0x3FF0000000000000#64 0#64).al)) = true ∧
      isZero (fadd 0x4000000000000000#64 (fmul 0x4000000000000000#64
        (bqPre Params.default 0x40E7700000000000#64 0#64 0x3FF0000000000000#64 0#64).al)) = false := by decide +kernel

/-- `reset_filters_pass_finite_input`: the reset units of `ready`, finite inputs, each mask. -/
theorem witness_reset_filters :
    (ready 4#32).sp = ⟨0x3FF0000000000000#64, 0#64, 0#64, 0#64, 0#64⟩ ∧ (ready 4#32).section 0 = Biquad.flat ∧
      (ready 4#32).svf = ⟨0#64, 0#64, 0#64, 0#64⟩ ∧ isfinite 0x3FF0000000000000#64 = true ∧
      [1, 2, 4, 8].map (fun m => (Instr.svfProc m).fault? (ready 4#32)) = [none, none, none, none] := by decide +kernel

/-- `comb_designs` and `comb_processing`: the three modes, and a feedback delay of less than one sample. -/
theorem witness_comb_modes :
    [0#32, 1#32, 2#32].map (fun m => Instr.cbProc.fault? { ready 4#32 with cb := ⟨m, 0#64, 0#64, 0#64⟩ }) = [none, none, none] ∧
      Instr.cbDesignFb.fault? (upd (ready 4#32) 0x3FE0000000000000#64) = none := by decide +kernel

/-- `direct_convolution`: the shortest response, which has no tail. -/
theorem witness_direct_convolution :
    Instr.cvProc.fault? { ready 4#32 with cv := ⟨2#32, 1#32, cellsFrom 0 (zeros 1), []⟩ } = none ∧
      (ready 4#32).cv.irlen.toNat = 2 := by decide +kernel

/-- `windowed_sinc_kernels`: its functions exist for every state. -/
theorem witness_windowed_sinc (step tapAt : F → Nat → F) (spread : (F → Nat → F) → F → Nat → F) :
    ∃ tap sum lp hp : F → Nat → F, (∀ fc i, tap fc i = tapAt fc i) ∧ (∀ fc, sum fc 0 = 0#64) ∧
      (∀ fc i, sum fc (i + 1) = fadd (sum fc i) (tap fc i)) ∧ (∀ fc i, lp fc i = step fc i) ∧
      (∀ fc i, hp fc i = spread lp fc i) :=
  ⟨tapAt, fun fc i => i.rec 0#64 fun k v => fadd v (tapAt fc k), step, spread step, fun _ _ => rfl, fun _ => rfl,
    fun _ _ => rfl, fun _ _ => rfl, fun _ _ => rfl⟩

/-- `equaliser_band_design`: the first band, one between and the last. -/
theorem witness_bands :
    [0, 1, 2].map (fun b => (Instr.peqSetband b).fault? { ready 4#32 with peq := ⟨0x40E7700000000000#64, 3#32⟩ }) =
      [none, none, none] := by decide +kernel

/-- `splitting_a_block_changes_nothing`: the ends of the range of `n1`, a block in place and one apart. -/
theorem witness_splitting :
    (ready 4#32).r.r2.toNat = 0 + 4 ∧ (ready 4#32).r.r2.toNat = 4 + 0 ∧ (ready 4#32).r.r2.toNat = 1 + 3 ∧
      (ready 4#32).r.r0.toNat + (ready 4#32).r.r2.toNat ≤ (ready 4#32).r.r1.toNat ∧
      Instr.dlProc.fault? ((ready 4#32).setR (ints 0#32 0#32 4#32 0#32)) = none := by decide +kernel

/-- The same for `SVF.PROC` with all four outputs: in place, apart, two on one block, and one that just touches the input. -/
theorem witness_splitting_svf :
    (Instr.svfProc 15).fault? ((ready 4#32).setR ⟨0#32, 0#32, 4#32, 16#32, 16#32, 4#32, 0#32, 0#32⟩) = none ∧
      ((0#32 : U32) :: ((ready 4#32).setR ⟨0#32, 0#32, 4#32, 16#32, 16#32, 4#32, 0#32, 0#32⟩).svfOutputs 15).Pairwise
        (fun a b => b.toNat ≤ a.toNat ∨ a.toNat + 4 ≤ b.toNat) := by decide +kernel

end Sys2Proof.Tests
end

section
/-! The transform unit XF: which sizes its two `INIT` commands accept (40_transform.md R201, R210), what the bit reversal
(R214) and what one butterfly pass (R212) leave at each position of the working arrays. -/

namespace Sys2Proof.Machine

/-! ### The sizes of DFT.INIT and FFT.INIT -/

/-- The bit trick of 00_scope.md R19 tests for a power of two. -/
theorem ispow2_iff (n : Nat) : ispow2 n = true ↔ ∃ p, n = 2 ^ p := by
  rw [← Nat.isPowerOfTwo, ← Nat.ne_zero_and_sub_one_eq_zero_iff_isPowerOfTwo]
  simp [ispow2, Nat.one_le_iff_ne_zero]

theorem sizeCheck_passes_iff (lo hi n : Nat) : (sizeCheck lo hi n).1 = true ↔ lo ≤ n ∧ n ≤ hi := by simp [sizeCheck]

@[simp] theorem sizeCheck_code (lo hi n : Nat) : (sizeCheck lo hi n).2 = .size := rfl

/-- Where all checks raise one fault, the order of the checks does not matter. -/
theorem firstFault_of_same_code {cs : List Check} {e : ErrCode} (hcode : ∀ c ∈ cs, c.2 = e)
    (hfail : ¬ ∀ c ∈ cs, c.1 = true) : firstFault cs = some e := by
  cases h : firstFault cs with
  | none => exact absurd ((firstFault_eq_none cs).1 h) hfail
  | some d =>
    obtain ⟨pre, c, post, rfl, -, -, rfl⟩ := (firstFault_eq_some cs d).1 h
    rw [hcode c (by simp)]

theorem exec_dftInit (s : State) : exec .dftInit s =
    command .dftInit [sizeCheck 1 s.params.dftMax s.r.r2.toNat] s fun s => s.setDftN s.r.r2 := rfl

theorem exec_fftInit (s : State) : exec .fftInit s =
    command .fftInit [(ispow2 s.r.r2.toNat, .size), sizeCheck 4 s.params.nmax s.r.r2.toNat] s
      fun s => s.setFftN s.r.r2 := rfl

/-- The checks of `DFT.INIT` pass for exactly the sizes of R201. -/
theorem dftInit_checks_iff (m n : Nat) : (∀ c ∈ [sizeCheck 1 m n], c.1 = true) ↔ 1 ≤ n ∧ n ≤ m := by
  simp [sizeCheck_passes_iff]

/-- The checks of `FFT.INIT` pass for exactly the sizes of R210. -/
theorem fftInit_checks_iff (m n : Nat) :
    (∀ c ∈ [(ispow2 n, ErrCode.size), sizeCheck 4 m n], c.1 = true) ↔ (∃ p, n = 2 ^ p) ∧ 4 ≤ n ∧ n ≤ m := by
  simp [sizeCheck_passes_iff, ispow2_iff]

/-- Settles O24: the checks of each command pass for its legal sizes only, and all of them raise `E_SIZE`. -/
theorem transform_sizes : Obligations.transform_sizes := by
  intro s
  refine ⟨fun hlo hhi => ?_, fun hbad => ?_, fun hpow hlo hhi => ?_, fun hbad => ?_⟩
  · rw [exec_dftInit]
    exact command_of_none ((firstFault_eq_none _).2 ((dftInit_checks_iff _ _).2 ⟨hlo, hhi⟩))
  · rw [exec_dftInit]
    refine command_of_some (c := .size) (firstFault_of_same_code (by simp) ?_)
    rw [dftInit_checks_iff]
    omega
  · rw [exec_fftInit]
    exact command_of_none ((firstFault_eq_none _).2 ((fftInit_checks_iff _ _).2 ⟨hpow, hlo, hhi⟩))
  · rw [exec_fftInit]
    refine command_of_some (c := .size) (firstFault_of_same_code (by simp) ?_)
    rw [fftInit_checks_iff]
    rintro ⟨hpow, hlo, hhi⟩
    rcases hbad with h | h | h
    · exact h hpow
    · omega
    · omega

/-! ### One position of the working arrays -/

/-- The complex value at a position: its real and its imaginary part. -/
def Work.point (w : Work) (i : Nat) : F × F := (at0 w.wr i, at0 w.wi i)

/-- Both working arrays have at least `n` positions. -/
def Work.Covers (n : Nat) (w : Work) : Prop := n ≤ w.wr.length ∧ n ≤ w.wi.length

theorem Work.Covers.put {n : Nat} {w : Work} (hw : w.Covers n) (i : Nat) (re im : F) : (w.put i re im).Covers n := by
  simpa [Work.Covers] using hw

theorem Work.Covers.swap {n : Nat} {w : Work} (hw : w.Covers n) (i j : Nat) : (w.swap i j).Covers n :=
  (hw.put _ _ _).put _ _ _

theorem Work.point_put {n : Nat} {w : Work} (hw : w.Covers n) {i : Nat} (hi : i < n) (re im : F) (x : Nat) :
    (w.put i re im).point x = if x = i then (re, im) else w.point x := by
  obtain ⟨hr, hc⟩ := hw
  simp only [Work.point, Work.at0_put_wr, Work.at0_put_wi, show i < w.wr.length by omega,
    show i < w.wi.length by omega, and_true, eq_comm (a := i)]
  split <;> rfl

/-- After an exchange each position holds what the transposition of the two indices says. -/
theorem Work.point_swap {n : Nat} {w : Work} (hw : w.Covers n) {i j : Nat} (hi : i < n) (hj : j < n) (x : Nat) :
    (w.swap i j).point x = w.point (Equiv.swap i j x) := by
  rw [Work.swap, Work.point_put (hw.put _ _ _) hj, Work.point_put hw hi]
  by_cases hxj : x = j
  · rw [if_pos hxj, hxj, Equiv.swap_apply_right]
    rfl
  · by_cases hxi : x = i
    · rw [if_neg hxj, if_pos hxi, hxi, Equiv.swap_apply_left]
      rfl
    · rw [if_neg hxj, if_neg hxi, Equiv.swap_apply_of_ne_of_ne hxi hxj]

/-- An indexed property that round `i` of a counting loop carries from `i` to `i + 1` holds after the loop. -/
theorem foldl_range_inv {σ : Type} {f : σ → Nat → σ} {P : Nat → σ → Prop} {n : Nat} {st : σ} (h0 : P 0 st)
    (hstep : ∀ i st, i < n → P i st → P (i + 1) (f st i)) : P n ((List.range n).foldl f st) := by
  induction n with
  | zero => exact h0
  | succ n ih =>
    rw [List.range_succ, List.foldl_append]
    exact hstep n _ n.lt_succ_self (ih fun i st hi => hstep i st (by omega))

/-! ### The bit reversal -/

theorem bitrev_succ (i b : Nat) : bitrev i (b + 1) = 2 ^ b * (i % 2) + bitrev (i / 2) b := by
  rw [bitrev, Nat.mul_comm]

theorem bitrev_lt (i b : Nat) : bitrev i b < 2 ^ b := by
  induction b generalizing i with
  | zero => simp [bitrev]
  | succ b ih =>
    have hrest := ih (i / 2)
    rw [bitrev_succ, Nat.pow_succ]
    rcases Nat.mod_two_eq_zero_or_one i with h | h <;> rw [h] <;> omega

theorem testBit_bitrev (i b j : Nat) (hj : j < b) : (bitrev i b).testBit j = i.testBit (b - 1 - j) := by
  induction b generalizing i with
  | zero => omega
  | succ b ih =>
    rw [bitrev_succ, Nat.testBit_two_pow_mul_add _ (bitrev_lt _ _)]
    by_cases h : j < b
    · rw [if_pos h, ih _ h, Nat.testBit_div_two, show b - 1 - j + 1 = b + 1 - 1 - j by omega]
    · obtain rfl : j = b := by omega
      simp

/-- Reversing the bits twice gives the index back. -/
theorem bitrev_bitrev {i b : Nat} (hi : i < 2 ^ b) : bitrev (bitrev i b) b = i := by
  refine Nat.eq_of_testBit_eq fun j => ?_
  by_cases hj : j < b
  · rw [testBit_bitrev _ _ _ hj, testBit_bitrev _ _ _ (by omega), show b - 1 - (b - 1 - j) = j by omega]
  · have hpow : 2 ^ b ≤ 2 ^ j := Nat.pow_le_pow_right (by decide) (by omega)
    rw [Nat.testBit_lt_two_pow ((bitrev_lt _ _).trans_le hpow), Nat.testBit_lt_two_pow (hi.trans_le hpow)]

/-- Where the point at position `i` came from once the loop of the bit reversal has run over the indices below `n`: a pair is
exchanged in the round of its smaller index. -/
def reversedBelow (p n i : Nat) : Nat := if i < 2 ^ p ∧ min i (bitrev i p) < n then bitrev i p else i

theorem reversedBelow_zero (p i : Nat) : reversedBelow p 0 i = i := by simp [reversedBelow]

theorem reversedBelow_full (p i : Nat) : reversedBelow p (2 ^ p) i = if i < 2 ^ p then bitrev i p else i := by
  have h := bitrev_lt i p
  simp only [reversedBelow, inf_lt_iff, h, or_true, and_true]

theorem reversedBelow_of_lt {p n i : Nat} (hi : i < 2 ^ p) (h : min i (bitrev i p) < n) :
    reversedBelow p n i = bitrev i p := if_pos ⟨hi, h⟩

theorem reversedBelow_of_le {p n i : Nat} (h : n ≤ min i (bitrev i p)) : reversedBelow p n i = i :=
  if_neg fun hlt => absurd hlt.2 (by omega)

/-- A round that is not the round of `i`'s pair leaves position `i`. -/
theorem reversedBelow_succ_of_ne {p n i : Nat} (h : min i (bitrev i p) ≠ n) :
    reversedBelow p (n + 1) i = reversedBelow p n i := by
  have : min i (bitrev i p) < n + 1 ↔ min i (bitrev i p) < n := by omega
  simp only [reversedBelow, this]

/-- A round whose index is below its reversal exchanges the two. -/
theorem reversedBelow_succ_of_lt {p n : Nat} (hn : n < 2 ^ p) (h : n < bitrev n p) (i : Nat) :
    reversedBelow p (n + 1) i = reversedBelow p n (Equiv.swap n (bitrev n p) i) := by
  have hr := bitrev_lt n p
  have hrr := bitrev_bitrev hn
  by_cases hin : i = n
  · rw [hin, Equiv.swap_apply_left, reversedBelow_of_lt hn (by omega), reversedBelow_of_le (by omega)]
  · by_cases hir : i = bitrev n p
    · rw [hir, Equiv.swap_apply_right, reversedBelow_of_lt hr (by omega), reversedBelow_of_le (by omega), hrr]
    · rw [Equiv.swap_apply_of_ne_of_ne hin hir]
      by_cases hi : i < 2 ^ p
      · have hne : bitrev i p ≠ n := fun e => hir (by rw [← e, bitrev_bitrev hi])
        exact reversedBelow_succ_of_ne (by omega)
      · simp [reversedBelow, hi]

/-- Any other round leaves everything where it is. -/
theorem reversedBelow_succ_of_le {p n : Nat} (h : bitrev n p ≤ n) (i : Nat) :
    reversedBelow p (n + 1) i = reversedBelow p n i := by
  by_cases hi : i < 2 ^ p
  · by_cases hmin : min i (bitrev i p) = n
    · have hback := bitrev_bitrev hi
      obtain rfl : i = n := by
        by_contra hne
        have he : bitrev i p = n := by omega
        rw [he] at hback
        omega
      have hfix : bitrev i p = i := by omega
      simp [reversedBelow, hfix]
    · exact reversedBelow_succ_of_ne hmin
  · simp [reversedBelow, hi]

/-- What the bit reversal does, both parts of a point at once: once all its rounds have run, every pair is exchanged. -/
theorem point_bitReverse (p : Nat) {w : Work} (hw : w.Covers (2 ^ p)) (i : Nat) :
    (bitReverse (2 ^ p) w).point i = w.point (if i < 2 ^ p then bitrev i p else i) := by
  rw [← reversedBelow_full]
  unfold bitReverse
  rw [Nat.log2_two_pow]
  refine (foldl_range_inv (P := fun n (v : Work) => v.Covers (2 ^ p) ∧ ∀ i, v.point i = w.point (reversedBelow p n i))
    ⟨hw, fun i => by rw [reversedBelow_zero]⟩ ?_).2 i
  rintro n v hn ⟨hv, hpoint⟩
  by_cases h : n < bitrev n p
  · rw [if_pos h]
    refine ⟨hv.swap _ _, fun i => ?_⟩
    rw [Work.point_swap hv hn (bitrev_lt _ _), hpoint, reversedBelow_succ_of_lt hn h]
  · rw [if_neg h]
    refine ⟨hv, fun i => ?_⟩
    rw [hpoint, reversedBelow_succ_of_le (by omega)]

/-- Settles O31: every bit of the reversed index, and the permutation by reversed indices. -/
theorem bit_reversal_permutes : Obligations.bit_reversal_permutes := by
  refine ⟨fun i b _ => ⟨bitrev_lt i b, testBit_bitrev i b⟩, fun p w i hr hc => ?_⟩
  exact Prod.ext_iff.1 (point_bitReverse p ⟨hr, hc⟩ i)

/-! ### One butterfly pass -/

/-- The pair `(i, i + h)` of `w` as one butterfly with the twiddle `u` leaves it in `v`: the sum and the difference of the
first point and the second times the twiddle (40_transform.md R212). -/
def Work.Combined (h : Nat) (u : F × F) (w v : Work) (i : Nat) : Prop :=
  let t := nextTwiddle u.1 u.2 (w.point (i + h))
  v.point i = (fadd (w.point i).1 t.1, fadd (w.point i).2 t.2) ∧
    v.point (i + h) = (fsub (w.point i).1 t.1, fsub (w.point i).2 t.2)

theorem Work.Combined.congr {h : Nat} {u : F × F} {w w' v v' : Work} {i : Nat} (hc : Work.Combined h u w v i)
    (hw : w'.point i = w.point i ∧ w'.point (i + h) = w.point (i + h))
    (hv : v'.point i = v.point i ∧ v'.point (i + h) = v.point (i + h)) : Work.Combined h u w' v' i := by
  simpa only [Work.Combined, hw, hv] using hc

theorem butterfly_covers {n : Nat} {w : Work} (hw : w.Covers n) (h : Nat) (u : F × F) (i : Nat) :
    (butterfly h u.1 u.2 w i).Covers n := (hw.put _ _ _).put _ _ _

theorem butterfly_combined {n h i : Nat} {w : Work} (hw : w.Covers n) (hh : 0 < h) (hi : i + h < n) (u : F × F) :
    Work.Combined h u w (butterfly h u.1 u.2 w i) i := by
  constructor
  · rw [butterfly, Work.point_put (hw.put _ _ _) (by omega), if_pos rfl]
    rfl
  · rw [butterfly, Work.point_put (hw.put _ _ _) (by omega), if_neg (by omega), Work.point_put hw hi, if_pos rfl]
    rfl

theorem butterfly_elsewhere {n h i : Nat} {w : Work} (hw : w.Covers n) (hi : i + h < n) (u : F × F) {x : Nat}
    (hx : x ≠ i ∧ x ≠ i + h) : (butterfly h u.1 u.2 w i).point x = w.point x := by
  rw [butterfly, Work.point_put (hw.put _ _ _) (by omega), if_neg hx.1, Work.point_put hw hi, if_neg hx.2]

/-- Butterflies one after another: each entry is a first position and its twiddle. -/
def butterflies (h : Nat) (ops : List (Nat × (F × F))) (w : Work) : Work :=
  ops.foldl (fun w op => butterfly h op.2.1 op.2.2 w op.1) w

/-- The pairs starting at `i` and `i'` have no position in common. -/
def Apart (h i i' : Nat) : Prop := (i ≠ i' ∧ i ≠ i' + h) ∧ i + h ≠ i' ∧ i + h ≠ i' + h

theorem Apart.symm {h i i' : Nat} (hap : Apart h i i') : Apart h i' i := by
  unfold Apart at hap ⊢
  omega

/-- Butterflies on pairs without a common position do not meet: each combines the values from before all of them, and every
other position keeps its value. -/
theorem butterflies_spec {n h : Nat} (hh : 0 < h) (ops : List (Nat × (F × F))) {w : Work} (hw : w.Covers n)
    (hin : ∀ op ∈ ops, op.1 + h < n) (hap : ops.Pairwise fun a b => Apart h a.1 b.1) :
    (∀ op ∈ ops, Work.Combined h op.2 w (butterflies h ops w) op.1) ∧
      ∀ x, (∀ op ∈ ops, x ≠ op.1 ∧ x ≠ op.1 + h) → (butterflies h ops w).point x = w.point x := by
  induction ops generalizing w with
  | nil => exact ⟨by simp, fun _ _ => rfl⟩
  | cons op ops ih =>
    obtain ⟨hop, hops⟩ := List.forall_mem_cons.1 hin
    obtain ⟨hfirst, hrest⟩ := List.pairwise_cons.1 hap
    obtain ⟨hpairs, hother⟩ := ih (butterfly_covers hw h op.2 op.1) hops hrest
    have hkeep := fun x => butterfly_elsewhere (x := x) hw hop op.2
    constructor
    · refine List.forall_mem_cons.2 ⟨?_, fun op' hmem => ?_⟩
      · exact (butterfly_combined hw hh hop op.2).congr ⟨rfl, rfl⟩
          ⟨hother _ fun op' hmem => (hfirst op' hmem).1, hother _ fun op' hmem => (hfirst op' hmem).2⟩
      · obtain ⟨hx, hxh⟩ := (hfirst op' hmem).symm
        exact (hpairs op' hmem).congr ⟨(hkeep _ hx).symm, (hkeep _ hxh).symm⟩ ⟨rfl, rfl⟩
    · intro x hx
      obtain ⟨hx0, hxs⟩ := List.forall_mem_cons.1 hx
      exact (hother x hxs).trans (hkeep x hx0)

/-- The running twiddle of index `j` in the pass of half-width `h` (40_transform.md R212). -/
def runningTwiddle (h : Nat) : Nat → F × F
  | 0 => (fone, fzero)
  | j + 1 => nextTwiddle (twC h) (fneg (twS h)) (runningTwiddle h j)

/-- The butterflies of a pass over `2·h·c` positions whose index is below `n`, in the order of the pass. -/
def passOps (h c n : Nat) : List (Nat × (F × F)) :=
  (List.range n).flatMap fun j => (List.range c).map fun k => (j + 2 * h * k, runningTwiddle h j)

theorem mem_passOps {h c n : Nat} {op : Nat × (F × F)} :
    op ∈ passOps h c n ↔ ∃ j k, j < n ∧ k < c ∧ op = (j + 2 * h * k, runningTwiddle h j) := by
  simp [passOps, eq_comm]

theorem bflyPass_eq_butterflies (w : Work) {h : Nat} (hh : 0 < h) (c : Nat) :
    bflyPass w h (2 * h * c) = butterflies h (passOps h c h) w := by
  refine congrArg Prod.fst (foldl_range_inv
    (P := fun n acc => acc = (butterflies h (passOps h c n) w, runningTwiddle h n)) rfl ?_)
  rintro j acc - rfl
  simp only [bflyColumn, Nat.mul_div_cancel_left c (show 0 < 2 * h by omega), butterflies, passOps, List.range_succ,
    List.flatMap_append, List.foldl_append, List.flatMap_singleton, List.foldl_map, runningTwiddle]

/-- A position is its index within a group of `m` and the number of the group in one way only. -/
theorem add_mul_inj {m a b k k' : Nat} (ha : a < m) (hb : b < m) (heq : a + m * k = b + m * k') : a = b ∧ k = k' := by
  obtain ⟨hdiv, hmod⟩ := (Nat.div_mod_unique (Nat.zero_lt_of_lt ha)).2 ⟨heq, ha⟩
  obtain ⟨hdiv', hmod'⟩ := (Nat.div_mod_unique (d := k') (Nat.zero_lt_of_lt ha)).2 ⟨rfl, hb⟩
  exact ⟨hmod.symm.trans hmod', hdiv.symm.trans hdiv'⟩

/-- Two pairs of a pass with different `j` or different `k` have no position in common. -/
theorem apart_of_ne {h j k j' k' : Nat} (hj : j < h) (hj' : j' < h) (hne : j ≠ j' ∨ k ≠ k') :
    Apart h (j + 2 * h * k) (j' + 2 * h * k') := by
  have inj := fun {a b : Nat} => add_mul_inj (m := 2 * h) (a := a) (b := b) (k := k) (k' := k')
  have hfirst : j + 2 * h * k ≠ j' + 2 * h * k' := fun e => by
    have := inj (by omega) (by omega) e
    omega
  have hcross : j + 2 * h * k ≠ j' + 2 * h * k' + h := fun e => by
    have := inj (a := j) (b := j' + h) (by omega) (by omega) (by omega)
    omega
  have hcross' : j + 2 * h * k + h ≠ j' + 2 * h * k' := fun e => by
    have := inj (a := j + h) (b := j') (by omega) (by omega) (by omega)
    omega
  exact ⟨⟨hfirst, hcross⟩, hcross', fun e => hfirst (Nat.add_right_cancel e)⟩

theorem passOps_apart (h c : Nat) : (passOps h c h).Pairwise fun a b => Apart h a.1 b.1 := by
  refine List.pairwise_flatMap.2 ⟨fun j hj => ?_, ?_⟩
  · have hj := List.mem_range.1 hj
    exact List.pairwise_map.2 (List.pairwise_lt_range.imp fun hk => apart_of_ne hj hj (.inr hk.ne))
  · refine List.pairwise_lt_range.imp_of_mem fun hj hj' hlt => ?_
    have hj := List.mem_range.1 hj
    have hj' := List.mem_range.1 hj'
    simpa using fun k _ k' _ => apart_of_ne hj hj' (.inl hlt.ne)

/-- A pair of a pass lies inside the positions the pass works over. -/
theorem pair_lt {h c j k : Nat} (hj : j < h) (hk : k < c) : j + 2 * h * k + h < 2 * h * c := by
  calc j + 2 * h * k + h < 2 * h * (k + 1) := by rw [Nat.mul_add]; omega
    _ ≤ 2 * h * c := Nat.mul_le_mul_left _ hk

/-- What a pass does: it combines every one of its pairs and leaves the positions beyond. -/
theorem bflyPass_spec (h c : Nat) {w : Work} (hw : w.Covers (2 * h * c)) :
    (∀ j k, j < h → k < c → Work.Combined h (runningTwiddle h j) w (bflyPass w h (2 * h * c)) (j + 2 * h * k)) ∧
      ∀ x, 2 * h * c ≤ x → (bflyPass w h (2 * h * c)).point x = w.point x := by
  rcases Nat.eq_zero_or_pos h with rfl | hh
  · exact ⟨fun j k hj => by omega, fun x _ => rfl⟩
  rw [bflyPass_eq_butterflies w hh]
  have hin : ∀ op ∈ passOps h c h, op.1 + h < 2 * h * c := by
    intro op hop
    obtain ⟨j, k, hj, hk, rfl⟩ := mem_passOps.1 hop
    exact pair_lt hj hk
  obtain ⟨hpairs, hother⟩ := butterflies_spec hh _ hw hin (passOps_apart h c)
  refine ⟨fun j k hj hk => hpairs _ (mem_passOps.2 ⟨j, k, hj, hk, rfl⟩), fun x hx => hother x fun op hop => ?_⟩
  have := hin op hop
  omega

/-- Settles O32: the pass in terms of its running twiddle. -/
theorem butterfly_pass : Obligations.butterfly_pass := by
  intro h c w hr hi
  obtain ⟨hpairs, hbeyond⟩ := bflyPass_spec h c (w := w) ⟨hr, hi⟩
  refine ⟨runningTwiddle h, rfl, fun _ => rfl, ?_, fun x hx => Prod.ext_iff.1 (hbeyond x hx)⟩
  rintro j k hj hk i rfl tr ti rfl rfl
  obtain ⟨hsum, hdiff⟩ := hpairs j k hj hk
  obtain ⟨hsr, hsi⟩ := Prod.ext_iff.1 hsum
  obtain ⟨hdr, hdi⟩ := Prod.ext_iff.1 hdiff
  exact ⟨hsr, hsi, hdr, hdi⟩

end Sys2Proof.Machine
end

section
/-! The recursive filters: the designs and the resets of the single pole SP (43_iir_filters.md R301, R302, R304) and of the
state-variable filter SVF (R330, R332). None of these commands checks anything (R300). -/

namespace Sys2Proof.Machine

/-! ### What the commands do, through the units' own functions -/

theorem exec_spDesignLp (s : State) :
    exec .spDesignLp s = .next (s.setSp (s.sp.lowPass (spPole s.params s.f.f0 s.f.f1))) := rfl

theorem exec_spDesignHp (s : State) :
    exec .spDesignHp s = .next (s.setSp (s.sp.highPass (spPole s.params s.f.f0 s.f.f1))) := rfl

theorem exec_spReset (s : State) : exec .spReset s = .next (s.setSp { s.sp with x1 := fzero, y1 := fzero }) :=
  rfl

theorem exec_svfDesign (s : State) : exec .svfDesign s = .next (s.setSvf { s.svf with
    f := fmul ftwo (nsin s.params (fdiv (fmul cPI s.f.f1) s.f.f0)), q := fdiv fone s.f.f2 }) :=
  rfl

theorem exec_svfReset (s : State) : exec .svfReset s = .next (s.setSvf { s.svf with x1 := fzero, x2 := fzero }) :=
  rfl

/-! ### The coefficients of the single pole -/

/-- The low-pass coefficients from the pole, and the state registers kept (43_iir_filters.md R301). -/
theorem SinglePole.lowPass_eq (sp : SinglePole) (b1 : F) :
    sp.lowPass b1 = ⟨fsub fone b1, fzero, b1, sp.x1, sp.y1⟩ := rfl

/-- The high-pass coefficients from the pole, and the state registers kept (43_iir_filters.md R302). -/
theorem SinglePole.highPass_eq {sp : SinglePole} {b1 a0 : F} (ha : a0 = fdiv (fadd fone b1) ftwo) :
    sp.highPass b1 = ⟨a0, fneg a0, b1, sp.x1, sp.y1⟩ := by
  subst ha
  rfl

/-- Settles O40: each command writes its own unit only, with the coefficients of its design or the state registers zeroed. -/
theorem filter_designs_and_resets : Obligations.filter_designs_and_resets := by
  refine ⟨by decide, fun s b1 a0 hb1 ha0 => ?_⟩
  have hpole : spPole s.params s.f.f0 s.f.f1 = b1 := hb1.symm
  refine ⟨?lowPass, ?highPass, ?spReset, ?svfDesign, ?svfReset⟩
  case lowPass =>
    rw [exec_spDesignLp, hpole, SinglePole.lowPass_eq]
    rfl
  case highPass =>
    rw [exec_spDesignHp, hpole, SinglePole.highPass_eq ha0]
    rfl
  case spReset => exact exec_spReset s
  case svfDesign => exact exec_svfDesign s
  case svfReset => exact exec_svfReset s

end Sys2Proof.Machine
end

section
/-! The SYS commands and the host's register writes (48_system.md R500, R506 to R508): which register each slot names and
the slot back from the register (10_state.md R40), what every slot reads after a reset, and what a register reads after
a write. -/

namespace Sys2Proof.Machine

/-! ### The SYS commands -/

theorem exec_sysNop (s : State) : exec .sysNop s = .next s := rfl

theorem exec_sysClrerr (s : State) : exec .sysClrerr s = .next (clearFault s) := rfl

theorem exec_sysReset (s : State) : exec .sysReset s = .next s.softReset := rfl

/-- Settles O11: neither command checks anything, and the return from a fault writes the record alone. -/
theorem nop_and_clear_error_complete : Obligations.nop_and_clear_error_complete :=
  ⟨rfl, rfl, fun s => ⟨exec_sysNop s, exec_sysClrerr s⟩⟩

/-! ### The slots of the register window -/

/-- The kinds of slot of the window (10_state.md R40), each with the register it names: the argument registers, the
`CAP_*` registers, the other slots below `0x100`, the registers of the sections, and what is reserved above `0x100`. -/
theorem slotReg_cases (p : Params) (slot : Nat) :
    (slot < 8 ∧ slotReg p slot = some (.r slot)) ∨
    (∃ i < 8, slot = 0x008 + i ∧ slotReg p slot = some (.f i)) ∨
    (∃ i < 8, slot = 0x018 + i ∧ slotReg p slot = some (.cap i)) ∨
    (0x010 ≤ slot ∧ slot < 0x100 ∧ (slot < 0x018 ∨ 0x020 ≤ slot) ∧ slotReg p slot = lowSlot slot) ∨
    (∃ k j, k < p.nbq ∧ j ≤ 8 ∧ slot = 0x100 + 16 * k + j ∧ slotReg p slot = some (.bq k j)) ∨
    (0x100 ≤ slot ∧ ¬ (slot < 0x100 + 16 * p.nbq ∧ (slot - 0x100) % 16 ≤ 8) ∧ slotReg p slot = none) := by
  unfold slotReg
  split_ifs with hr hf hcap hlow hbq
  · exact .inl ⟨hr, rfl⟩
  · exact .inr (.inl ⟨slot - 0x008, by omega, by omega, rfl⟩)
  · exact .inr (.inr (.inl ⟨slot - 0x018, by omega, by omega, rfl⟩))
  · exact .inr (.inr (.inr (.inl ⟨by omega, hlow, by omega, rfl⟩)))
  · exact .inr (.inr (.inr (.inr (.inl ⟨_, _, by omega, hbq.2, by omega, rfl⟩))))
  · exact .inr (.inr (.inr (.inr (.inr ⟨by omega, hbq, rfl⟩))))

/-- The register exists with the parameters `p`: its index is in the range the window has slots for. -/
def Reg.Present (p : Params) : Reg → Prop
  | .r i => i < 8
  | .f i => i < 8
  | .bq k j => k < p.nbq ∧ j ≤ 8
  | _ => True

theorem lowSlot_eq_some {p : Params} {slot : Nat} {reg : Reg} (h : lowSlot slot = some reg) :
    reg.Present p ∧ reg.slot = slot := by
  unfold lowSlot at h
  split at h <;> cases h <;> exact ⟨trivial, rfl⟩

/-- A slot names a register that exists, and no other slot names it. -/
theorem slotReg_eq_some {p : Params} {slot : Nat} {reg : Reg} (h : slotReg p slot = some reg) :
    reg.Present p ∧ reg.slot = slot := by
  rcases slotReg_cases p slot with ⟨hi, hreg⟩ | ⟨i, hi, rfl, hreg⟩ | ⟨i, hi, rfl, hreg⟩ | ⟨_, _, _, hlow⟩ |
    ⟨k, j, hk, hj, rfl, hreg⟩ | ⟨_, _, hnone⟩
  case inr.inr.inr.inl => exact lowSlot_eq_some (hlow.symm.trans h)
  case inr.inr.inr.inr.inr => simp [hnone] at h
  all_goals
    obtain rfl : _ = reg := Option.some.inj (hreg.symm.trans h)
    simp [Reg.Present, Reg.slot, *]

theorem State.readSlot_of_slotReg {s : State} {slot : Nat} {reg? : Option Reg} (h : slotReg s.params slot = reg?) :
    s.readSlot slot = reg?.elim 0#64 s.readReg := by
  subst h
  unfold State.readSlot
  cases slotReg s.params slot <;> rfl

/-! ### Reset -/

theorem State.section_resetRegisters (s : State) (k : Nat) : s.resetRegisters.section k = Biquad.flat := by
  simp only [State.section, State.resetRegisters, List.getD, List.getElem?_replicate]
  split <;> rfl

theorem Biquad.get_flat (j : Nat) : Biquad.flat.get j = if j = 0 then 0x3FF0000000000000#64 else 0#64 := by
  unfold Biquad.get
  split <;> simp_all [Biquad.flat]

theorem resetSlot_eq_zero {p : Params} {slot : Nat} (hcap : slot < 0x018 ∨ 0x020 ≤ slot)
    (hlow : slot ≠ 0x014 ∧ slot ≠ 0x030 ∧ slot ≠ 0x040)
    (hbq : ¬ (0x100 ≤ slot ∧ slot < 0x100 + 16 * p.nbq ∧ (slot - 0x100) % 16 = 0)) : resetSlot p slot = 0#64 := by
  simp (disch := omega) only [resetSlot, if_neg]

theorem resetSlot_section {p : Params} {k j : Nat} (hk : k < p.nbq) (hj : j ≤ 8) :
    resetSlot p (0x100 + 16 * k + j) = if j = 0 then 0x3FF0000000000000#64 else 0#64 := by
  by_cases h : j = 0
  · simp (disch := omega) only [resetSlot, if_neg, if_pos]
  · rw [if_neg h, resetSlot_eq_zero (by omega) (by omega) (by omega)]

@[simp] theorem State.resetRegisters_params (s : State) : s.resetRegisters.params = s.params := rfl

/-- What every slot reads once every register holds its reset value. -/
theorem readSlot_resetRegisters (s : State) (slot : Nat) :
    s.resetRegisters.readSlot slot = resetSlot s.params slot := by
  rw [← State.resetRegisters_params s]
  rcases slotReg_cases s.resetRegisters.params slot with ⟨hi, hreg⟩ | ⟨i, hi, rfl, hreg⟩ | ⟨i, hi, rfl, hreg⟩ |
    ⟨hle, hlt, hcap, hlow⟩ | ⟨k, j, hk, hj, rfl, hreg⟩ | ⟨hle, hres, hnone⟩
  · rw [State.readSlot_of_slotReg hreg]
    interval_cases slot <;> rfl
  · rw [State.readSlot_of_slotReg hreg]
    interval_cases i <;> rfl
  · rw [State.readSlot_of_slotReg hreg]
    interval_cases i <;> rfl
  · rw [State.readSlot_of_slotReg hlow]
    unfold lowSlot
    split
    case h_37 => exact (resetSlot_eq_zero hcap ⟨‹_›, ‹_›, ‹_›⟩ (by omega)).symm
    all_goals rfl
  · rw [State.readSlot_of_slotReg hreg, resetSlot_section hk hj, ← Biquad.get_flat, ← State.section_resetRegisters s k]
    rfl
  · rw [State.readSlot_of_slotReg hnone, resetSlot_eq_zero (.inr (by omega)) (by omega) (by omega)]
    rfl

/-- Settles O12: the registers by `readSlot_resetRegisters`; the memories and the host's own record are kept as they are. -/
theorem software_reset_restores_every_register : Obligations.software_reset_restores_every_register :=
  ⟨rfl, fun s _ => ⟨s.softReset, exec_sysReset s, readSlot_resetRegisters s,
    rfl, rfl, rfl, rfl, rfl, rfl, rfl, rfl, rfl, rfl, rfl, rfl, rfl⟩⟩

/-! ### What the host may write -/

/-- Whether and how the host may write a register (the access column of 10_state.md R40). -/
inductive Access where
  | readOnly
  | u32
  | f64

/-- The access of each register (10_state.md R40, R46). -/
def Reg.access : Reg → Access
  | .r _ => .u32
  | .f _ | .bq _ _ => .f64
  | .spA0 | .spA1 | .spB1 | .spX1 | .spY1 | .svF | .svQ | .svX1 | .svX2 | .cbGain | .cbX1 | .cbY1 => .f64
  | _ => .readOnly

/-- What a register reads after the host has written `v` to it, when it read `old` before (48_system.md R500). -/
def Access.written (old v : BitVec 64) : Access → BitVec 64
  | .readOnly => old
  | .u32 => zext (v.setWidth 32)
  | .f64 => v

theorem isRwInt_iff (slot : Nat) : isRwInt slot = true ↔ slot < 0x008 := decide_eq_true_iff

theorem isRwFloat_iff (p : Params) (slot : Nat) : isRwFloat p slot = true ↔
    (0x008 ≤ slot ∧ slot < 0x010) ∨ (0x030 ≤ slot ∧ slot ≤ 0x034) ∨ (0x038 ≤ slot ∧ slot ≤ 0x03B) ∨
      (0x041 ≤ slot ∧ slot ≤ 0x043) ∨ (0x100 ≤ slot ∧ slot < 0x100 + 16 * p.nbq ∧ (slot - 0x100) % 16 ≤ 8) := by
  simp only [isRwFloat, Bool.or_eq_true, decide_eq_true_eq, or_assoc]

theorem lowSlot_access (p : Params) {slot : Nat} (hle : 0x010 ≤ slot) (hlt : slot < 0x100) :
    (lowSlot slot).elim .readOnly Reg.access = if isRwFloat p slot then .f64 else .readOnly := by
  unfold lowSlot
  split
  case h_37 =>
    refine (if_neg ?_).symm
    simp only [imp_false] at *
    rw [isRwFloat_iff]
    omega
  all_goals rfl

/-- The access of the register a slot names is what `isRwInt` and `isRwFloat` say of the slot. -/
theorem slotReg_access (p : Params) (slot : Nat) :
    (slotReg p slot).elim .readOnly Reg.access =
      if isRwInt slot then .u32 else if isRwFloat p slot then .f64 else .readOnly := by
  rcases slotReg_cases p slot with ⟨hi, hreg⟩ | ⟨i, hi, rfl, hreg⟩ | ⟨i, hi, rfl, hreg⟩ |
    ⟨hle, hlt, hcap, hlow⟩ | ⟨k, j, hk, hj, rfl, hreg⟩ | ⟨hle, hres, hnone⟩
  case inr.inr.inr.inl =>
    rw [hlow, lowSlot_access p hle hlt, if_neg (c := isRwInt slot = true) (by rw [isRwInt_iff]; omega)]
  all_goals simp only [isRwInt_iff, isRwFloat_iff]
  · rw [hreg, if_pos hi]
    rfl
  · rw [hreg, if_neg (by omega), if_pos (by omega)]
    rfl
  · rw [hreg, if_neg (by omega), if_neg (by omega)]
    rfl
  · rw [hreg, if_neg (by omega), if_pos (by omega)]
    rfl
  · rw [hnone, if_neg (by omega), if_neg (by omega)]
    rfl

theorem IntArgs.get_put {i j : Nat} (hi : i < 8) (hj : j < 8) (a : IntArgs) (v : U32) :
    (a.put i v).get j = if j = i then v else a.get j := by
  interval_cases i <;> interval_cases j <;> rfl

theorem FloatArgs.get_put {i j : Nat} (hi : i < 8) (hj : j < 8) (a : FloatArgs) (v : F) :
    (a.put i v).get j = if j = i then v else a.get j := by
  interval_cases i <;> interval_cases j <;> rfl

theorem Biquad.get_put {i j : Nat} (hi : i ≤ 8) (hj : j ≤ 8) (b : Biquad) (v : F) :
    (b.put i v).get j = if j = i then v else b.get j := by
  interval_cases i <;> interval_cases j <;> rfl

/-- A register write touches the argument registers, SP, BQ, SVF and CB only. -/
theorem State.writeReg_eq (s : State) (reg : Reg) (v : BitVec 64) : ∃ r f sp bq svf cb,
    s.writeReg reg v = { s with r := r, f := f, sp := sp, bq := bq, svf := svf, cb := cb } := by
  cases reg <;> exact ⟨_, _, _, _, _, _, rfl⟩

theorem State.writeReg_of_readOnly {reg : Reg} (h : reg.access = .readOnly) (s : State) (v : BitVec 64) :
    s.writeReg reg v = s := by
  cases reg <;> first | rfl | nomatch h

/-- A write to a register changes what that register reads, as its access says, and what no other register reads. -/
theorem State.readReg_writeReg {s : State} (hs : s.bq.length = s.params.nbq) {reg a : Reg} (hreg : reg.Present s.params)
    (ha : a.Present s.params) (v : BitVec 64) :
    (s.writeReg reg v).readReg a = if a = reg then reg.access.written (s.readReg reg) v else s.readReg a := by
  by_cases hro : reg.access = .readOnly
  · rw [State.writeReg_of_readOnly hro, hro]
    split
    case isTrue h => rw [h]; rfl
    case isFalse => rfl
  cases reg
  case r i =>
    cases a
    case r j =>
      have h := IntArgs.get_put hreg ha s.r (v.setWidth 32)
      simp only [State.writeReg, State.readReg, State.setR_r, h, Reg.access, Access.written, Reg.r.injEq, apply_ite zext]
    all_goals rfl
  case f i =>
    cases a
    case f j =>
      have h := FloatArgs.get_put hreg ha s.f v
      simp only [State.writeReg, State.readReg, State.setF_f, h, Reg.access, Access.written, Reg.f.injEq]
    all_goals rfl
  case bq k j =>
    cases a
    case bq k' j' =>
      have h := Biquad.get_put hreg.2 ha.2 (s.section k) v
      simp only [State.writeReg, State.readReg, State.section_setSection, hs, hreg.1, and_true, Reg.access,
        Access.written, Reg.bq.injEq]
      by_cases hk : k' = k
      · simp only [hk, if_true, true_and, h]
      · simp only [hk, if_false, false_and]
    all_goals rfl
  case spA0 | spA1 | spB1 | spX1 | spY1 | svF | svQ | svX1 | svX2 | cbGain | cbX1 | cbY1 => cases a <;> rfl
  all_goals exact absurd rfl hro

theorem State.writeReg_params (s : State) (reg : Reg) (v : BitVec 64) : (s.writeReg reg v).params = s.params := by
  obtain ⟨_, _, _, _, _, _, hw⟩ := s.writeReg_eq reg v
  rw [hw]

theorem State.writeSlot_of_slotReg {s : State} {slot : Nat} {reg? : Option Reg} (h : slotReg s.params slot = reg?)
    (v : BitVec 64) : s.writeSlot slot v = reg?.elim s (s.writeReg · v) := by
  subst h
  unfold State.writeSlot
  cases slotReg s.params slot <;> rfl

/-- A write to a slot touches the argument registers, SP, BQ, SVF and CB only. -/
theorem State.writeSlot_eq (s : State) (slot : Nat) (v : BitVec 64) : ∃ r f sp bq svf cb,
    s.writeSlot slot v = { s with r := r, f := f, sp := sp, bq := bq, svf := svf, cb := cb } := by
  rw [State.writeSlot_of_slotReg rfl]
  cases slotReg s.params slot
  case none => exact ⟨_, _, _, _, _, _, rfl⟩
  case some reg => exact s.writeReg_eq reg v

/-- A write to a slot changes what that slot reads, as the access of its register says, and what no other slot reads. -/
theorem State.readSlot_writeSlot {s : State} (hs : s.bq.length = s.params.nbq) (slot k : Nat) (v : BitVec 64) :
    (s.writeSlot slot v).readSlot k =
      if k = slot then ((slotReg s.params slot).elim .readOnly Reg.access).written (s.readSlot slot) v
      else s.readSlot k := by
  cases hslot : slotReg s.params slot with
  | none =>
    rw [State.writeSlot_of_slotReg hslot]
    exact (ite_eq_right_iff.2 fun h => by rw [h]; rfl).symm
  | some reg =>
    have hparams := s.writeReg_params reg v
    rw [State.writeSlot_of_slotReg hslot, Option.elim_some, State.readSlot_of_slotReg hslot]
    obtain ⟨hreg, rfl⟩ := slotReg_eq_some hslot
    cases hk : slotReg s.params k with
    | none =>
      have hne : k ≠ reg.slot := fun h => by simp [← h, hk] at hslot
      rw [if_neg hne, State.readSlot_of_slotReg hk, State.readSlot_of_slotReg (hparams ▸ hk)]
      rfl
    | some a =>
      obtain ⟨ha, rfl⟩ := slotReg_eq_some hk
      have hiff : a.slot = reg.slot ↔ a = reg :=
        ⟨fun h => Option.some.inj (hk.symm.trans (h ▸ hslot)), congrArg Reg.slot⟩
      rw [State.readSlot_of_slotReg hk, State.readSlot_of_slotReg (hparams ▸ hk)]
      simp only [hiff]
      exact State.readReg_writeReg hs hreg ha v

/-- Settles O14: what is read by `readSlot_writeSlot` and `slotReg_access`, what is kept by `writeSlot_eq`. -/
theorem host_register_writes : Obligations.host_register_writes := by
  refine fun s slot v hinv => ⟨fun hcmd => hcmd ▸ hostWriteReg_cmd v s, fun hother => ?_⟩
  refine ⟨_, hostWriteReg_other hother v s, fun k => ?_, ?_⟩
  · rw [State.readSlot_writeSlot hinv.sections, slotReg_access]
    by_cases hk : k = slot
    · simp only [hk, true_and, if_true]
      split_ifs <;> rfl
    · simp only [hk, false_and, if_false]
  · obtain ⟨_, _, _, _, _, _, hw⟩ := s.writeSlot_eq slot v
    rw [hw]
    exact ⟨rfl, rfl, rfl, rfl, rfl, rfl, rfl, rfl, rfl, rfl⟩

end Sys2Proof.Machine
end

section
/-! `E_ILLEGAL` (60_exceptions.md R610): the decoder accepts exactly the legal words, field by field and row by row, and
`HostCommand` of any other word enters the fault. -/

namespace Sys2Proof.Machine

/-! ### The words the decoder accepts (30_encoding.md R142, R143) -/

theorem noIdx_ok_iff (i : Instr) (idx : Nat) : (∃ j, noIdx i idx = .ok j) ↔ idx = 0 := by
  unfold noIdx
  split <;> simp [*]

theorem plain_ok_iff (i : Instr) (mode idx : Nat) : (∃ j, plain i mode idx = .ok j) ↔ mode = 0 ∧ idx = 0 := by
  unfold plain
  split <;> simp [*, noIdx_ok_iff]

theorem indexed_ok_iff (i : Nat → Instr) (mode idx : Nat) : (∃ j, indexed i mode idx = .ok j) ↔ mode = 0 := by
  unfold indexed
  split <;> simp [*]

/-- The rows of R145 fall into three kinds: no row at all, a row with several modes (the opcodes `0x20`, `0x40`, `0x50`, `0x61`,
`0x71`, `0xA0` and `0xB0`), and a row with mode 0 alone. -/
theorem decodeRow_ok_iff (op mode idx : Nat) :
    (∃ i, decodeRow op mode idx = .ok i) ↔ mode < modeCount op ∧ (idx = 0 ∨ usesIdx op = true) := by
  unfold decodeRow
  split
  case h_42 => simp_all [modeCount]
  case h_10 | h_16 | h_19 | h_24 | h_27 | h_36 | h_37 =>
    split <;> simp_all [noIdx_ok_iff, modeCount, usesIdx]
    all_goals omega
  all_goals simp [plain_ok_iff, indexed_ok_iff, modeCount, usesIdx]

/-- The field whose definition takes no remainder: above bit 31 there is nothing to drop. -/
theorem opField_eq_extract (w : CmdWord) : opField w = (w.extractLsb' 24 8).toNat := by
  rw [BitVec.extractLsb'_toNat, Nat.shiftRight_eq_div_pow, opField]
  exact (Nat.mod_eq_of_lt (by omega)).symm

theorem modeField_eq_extract (w : CmdWord) : modeField w = (w.extractLsb' 16 8).toNat := by
  rw [BitVec.extractLsb'_toNat, Nat.shiftRight_eq_div_pow, modeField]

theorem idxField_eq_zero_iff (w : CmdWord) : idxField w = 0 ↔ w.extractLsb' 8 8 = 0#8 := by
  rw [← BitVec.toNat_inj, BitVec.extractLsb'_toNat, Nat.shiftRight_eq_div_pow, idxField]
  rfl

theorem zeroField_eq_zero_iff (w : CmdWord) : zeroField w = 0 ↔ w.extractLsb' 0 8 = 0#8 := by
  rw [← BitVec.toNat_inj, BitVec.extractLsb'_toNat, Nat.shiftRight_zero, zeroField]
  rfl

theorem legalWord_iff_fields (w : CmdWord) : legalWord w ↔
    modeField w < modeCount (opField w) ∧ zeroField w = 0 ∧ (idxField w = 0 ∨ usesIdx (opField w) = true) := by
  rw [opField_eq_extract, modeField_eq_extract, idxField_eq_zero_iff, zeroField_eq_zero_iff]

theorem decode_ok_iff_legalWord (w : CmdWord) : (∃ i, decode w = .ok i) ↔ legalWord w := by
  rw [legalWord_iff_fields, decode]
  split <;> simp [*, decodeRow_ok_iff]

/-! ### The words `HostCommand` refuses -/

/-- With the engine not halted, `HostCommand` either runs a word's row or faults, and only a legal word has a row. -/
theorem hostCommand_of_not_legal {s : State} {w : CmdWord} (hhalt : s.halt = false) (hw : ¬ legalWord w) :
    hostCommand w s = .next (faultEntry .illegal w s) := by
  obtain ⟨hh, -⟩ | ⟨hh, -⟩ | ⟨hh, -⟩ | ⟨-, -, hfault⟩ | ⟨-, i, hok, -⟩ := hostCommand_cases w s
  iterate 3 exact absurd (hhalt.symm.trans hh) Bool.false_ne_true
  · exact hfault
  · exact absurd ((decode_ok_iff_legalWord w).1 ⟨i, hok⟩) hw

/-- Settles O6: a word without a row enters `E_ILLEGAL`, and the entry writes the fault record alone (R604). -/
theorem an_illegal_word_faults : Obligations.an_illegal_word_faults :=
  ⟨fun _ _ => hostCommand_of_not_legal, by decide⟩

end Sys2Proof.Machine
end

section
/-! Encoding and decoding (30_encoding.md R140 to R145): the fields of a packed word, the row each command's fields select,
and the word of the command a row gives. -/

namespace Sys2Proof.Machine

/-! ### Packing and reading fields -/

section
variable {op mode idx : Nat} (hop : op < 2 ^ 8) (hmode : mode < 2 ^ 8) (hidx : idx < 2 ^ 8)
include hop hmode hidx

theorem toNat_packFields : (packFields op mode idx).toNat = op * 2 ^ 24 + mode * 2 ^ 16 + idx * 2 ^ 8 := by
  rw [packFields, BitVec.toNat_ofNat]
  omega

theorem opField_packFields : opField (packFields op mode idx) = op := by
  rw [opField, toNat_packFields hop hmode hidx]
  omega

theorem modeField_packFields : modeField (packFields op mode idx) = mode := by
  rw [modeField, toNat_packFields hop hmode hidx]
  omega

theorem idxField_packFields : idxField (packFields op mode idx) = idx := by
  rw [idxField, toNat_packFields hop hmode hidx]
  omega

theorem zeroField_packFields : zeroField (packFields op mode idx) = 0 := by
  rw [zeroField, toNat_packFields hop hmode hidx]
  omega

end

/-- A word whose `zero` field is zero is its other three fields packed. -/
theorem packFields_fields {w : CmdWord} (h : zeroField w = 0) :
    packFields (opField w) (modeField w) (idxField w) = w := by
  apply BitVec.eq_of_toNat_eq
  rw [toNat_packFields (by unfold opField; omega) (by unfold modeField; omega) (by unfold idxField; omega)]
  unfold zeroField at h
  unfold opField modeField idxField
  omega

/-! ### From a command to its row -/

/-- The fields of a well-formed command fit their eight bits. -/
theorem fields_lt_of_wf {i : Instr} (h : i.wf = true) :
    i.fields.1 < 2 ^ 8 ∧ i.fields.2.1 < 2 ^ 8 ∧ i.fields.2.2 < 2 ^ 8 := by
  cases i <;> simp [Instr.fields, Instr.wf, idxFits, maskFits] at h ⊢ <;> omega

/-- The row that a well-formed command's fields select gives the command. -/
theorem decodeRow_fields {i : Instr} (h : i.wf = true) :
    decodeRow i.fields.1 i.fields.2.1 i.fields.2.2 = .ok i := by
  cases i
  case svfProc mask => exact if_pos (of_decide_eq_true h)
  all_goals rfl

/-- Settles O1: the packed fields read back, and they select the command's own row. -/
theorem decode_inverts_encode : Obligations.decode_inverts_encode := by
  intro i hwf
  obtain ⟨hop, hmode, hidx⟩ := fields_lt_of_wf hwf
  rw [decode, encode, zeroField_packFields hop hmode hidx, if_pos rfl, opField_packFields hop hmode hidx,
    modeField_packFields hop hmode hidx, idxField_packFields hop hmode hidx, decodeRow_fields hwf]

/-! ### From a row to its command -/

theorem noIdx_eq_ok {i j : Instr} {idx : Nat} (h : noIdx i idx = .ok j) : j = i ∧ idx = 0 := by
  unfold noIdx at h
  split at h <;> simp_all

theorem plain_eq_ok {i j : Instr} {mode idx : Nat} (h : plain i mode idx = .ok j) : j = i ∧ mode = 0 ∧ idx = 0 := by
  unfold plain at h
  split at h
  · obtain ⟨rfl, hidx⟩ := noIdx_eq_ok h
    exact ⟨rfl, ‹_›, hidx⟩
  · cases h

theorem indexed_eq_ok {i : Nat → Instr} {j : Instr} {mode idx : Nat} (h : indexed i mode idx = .ok j) :
    j = i idx ∧ mode = 0 := by
  unfold indexed at h
  split at h <;> simp_all

/-- The command a row gives has the row's fields, and is well formed when `idx` has eight bits. The cases with several
modes are named; the others are rows with mode 0 alone. -/
theorem decodeRow_eq_ok {op mode idx : Nat} {i : Instr} (hidx : idx < 2 ^ 8) (h : decodeRow op mode idx = .ok i) :
    i.wf = true ∧ i.fields = (op, mode, idx) := by
  unfold decodeRow at h
  split at h
  case h_42 => cases h
  case h_10 | h_16 | h_27 | h_36 | h_37 =>
    split at h
    all_goals first
      | (obtain ⟨rfl, rfl⟩ := noIdx_eq_ok h; exact ⟨rfl, rfl⟩)
      | cases h
  case h_19 =>
    split at h <;> cases h <;> exact ⟨decide_eq_true hidx, rfl⟩
  case h_24 =>
    split at h
    · obtain ⟨rfl, rfl⟩ := noIdx_eq_ok h
      exact ⟨decide_eq_true ‹_›, rfl⟩
    · cases h
  case h_20 | h_21 | h_22 | h_39 =>
    obtain ⟨rfl, rfl⟩ := indexed_eq_ok h
    exact ⟨decide_eq_true hidx, rfl⟩
  all_goals
    obtain ⟨rfl, rfl, rfl⟩ := plain_eq_ok h
    exact ⟨rfl, rfl⟩

/-- Settles O2: a legal word is its fields packed, and they are the fields of the command its row gives. -/
theorem legal_word_is_one_command : Obligations.legal_word_is_one_command := by
  intro w i h
  unfold decode at h
  split at h
  case isFalse => cases h
  case isTrue hzero =>
    obtain ⟨hwf, hfields⟩ := decodeRow_eq_ok (by unfold idxField; omega) h
    refine ⟨hwf, ?_⟩
    rw [encode, hfields, packFields_fields hzero]

/-- Settles O3: the characterisation row by row, `decode_ok_iff_legalWord`. -/
theorem a_word_decodes_exactly_when_legal : Obligations.a_word_decodes_exactly_when_legal := decode_ok_iff_legalWord

/-- Settles O4: each sample word is run through the decoder. -/
theorem sample_words_decode : Obligations.sample_words_decode :=
  ⟨rfl, rfl, rfl, rfl, rfl, rfl, rfl, rfl, rfl, rfl, rfl, rfl, rfl, rfl⟩

end Sys2Proof.Machine
end

section
/-! Every command as its checks and its effect (48_system.md R505): the checks command by command, and that the first of them
to fail raises the fault of 60_exceptions.md R611 to R615. -/

namespace Sys2Proof

open Sys2Proof.Machine

/-- The checks of a command in the order of its rule, as `exec` makes them (`exec_eq_command`). -/
def Instr.checks (i : Instr) (s : State) : List Check :=
  match i with
  | .sysNop | .sysClrerr | .sysReset => []
  | .dftInit => [sizeCheck 1 s.params.dftMax s.r.r2.toNat]
  | .dftFwd =>
    [configured s.dftN, s.blockCheck s.r.r0 s.dftN.toNat, s.blockCheck s.r.r1 s.dftN.toNat, s.blockCheck s.r.r2 s.dftN.toNat]
  | .dftInv =>
    [configured s.dftN, s.blockCheck s.r.r1 s.dftN.toNat, s.blockCheck s.r.r2 s.dftN.toNat, s.blockCheck s.r.r0 s.dftN.toNat]
  | .fftInit => [(ispow2 s.r.r2.toNat, .size), sizeCheck 4 s.params.nmax s.r.r2.toNat]
  | .fftFwd =>
    [configured s.fftN, s.blockCheck s.r.r0 s.fftN.toNat, s.blockCheck s.r.r1 s.fftN.toNat, s.blockCheck s.r.r2 s.fftN.toNat]
  | .fftInv =>
    [configured s.fftN, s.blockCheck s.r.r1 s.fftN.toNat, s.blockCheck s.r.r2 s.fftN.toNat, s.blockCheck s.r.r0 s.fftN.toNat]
  | .winSetRect => [sizeCheck 1 s.params.winMax s.r.r2.toNat]
  | .winSetHann | .winSetHamm | .winSetBlack => [sizeCheck 2 s.params.winMax s.r.r2.toNat]
  | .winProc => [configured s.win.len, s.blockCheck s.r.r0 s.win.len.toNat, s.blockCheck s.r.r1 s.win.len.toNat]
  | .dlInit => dlInitChecks s.params s.f.f0 s.f.f1 s.f.f2
  | .cbInit => dlInitChecks s.params s.f.f0 s.f.f1 fzero
  | .dlSetdelay | .cbDesignFb | .cbDesignFf | .cbDesignAp => [configured s.dl.len, numberCheck s.f.f2]
  | .dlProc | .cbProc =>
    [configured s.dl.len, s.lengthCheck, s.blockCheck s.r.r0 s.r.r2.toNat, s.blockCheck s.r.r1 s.r.r2.toNat]
  | .dlClear | .cbReset => [configured s.dl.len]
  | .spDesignLp | .spDesignHp | .spReset | .svfDesign | .svfReset => []
  | .spProc => [s.lengthCheck, s.blockCheck s.r.r0 s.r.r2.toNat, s.blockCheck s.r.r1 s.r.r2.toNat]
  | .bqDesignLp k | .bqDesignHp k | .bqDesignBp k | .bqDesignAp k | .bqDesignNotch k | .bqDesignPeak k | .bqDesignLs k
  | .bqDesignHs k | .bqCustom k | .bqReset k => [s.sectionCheck k]
  | .bqProc k =>
    [s.sectionCheck k, s.lengthCheck, s.blockCheck s.r.r0 s.r.r2.toNat, s.blockCheck s.r.r1 s.r.r2.toNat]
  | .svfProc m =>
    [s.lengthCheck, s.blockCheck s.r.r0 s.r.r2.toNat, s.maskedCheck (m.testBit 0) s.r.r1 s.r.r2.toNat,
      s.maskedCheck (m.testBit 1) s.r.r3 s.r.r2.toNat, s.maskedCheck (m.testBit 2) s.r.r4 s.r.r2.toNat,
      s.maskedCheck (m.testBit 3) s.r.r5 s.r.r2.toNat]
  | .cvInit => convSizeChecks s ++ [s.blockCheck s.r.r0 s.r.r3.toNat]
  | .cvProc => [configured s.cv.frame, s.blockCheck s.r.r0 s.cv.frame.toNat, s.blockCheck s.r.r1 s.cv.frame.toNat]
  | .cvReset => [configured s.cv.frame]
  | .fcInit =>
    convSizeChecks s ++
      [(decide (fcSize s.r.r2.toNat s.r.r3.toNat ≤ s.params.nmax), .size), s.blockCheck s.r.r0 s.r.r3.toNat]
  | .fcProc => [configured s.fc.frame, s.blockCheck s.r.r0 s.fc.frame.toNat, s.blockCheck s.r.r1 s.fc.frame.toNat]
  | .fcReset => [configured s.fc.frame]
  | .wsDesignLp | .wsDesignHp | .wsDesignBr | .wsDesignBp =>
    wsLengthChecks s.params s.f.f0 s.f.f2 ++ [s.blockCheck s.r.r1 (wsLength s.f.f0 s.f.f2)]
  | .cuDesignLin | .cuDesignDb =>
    [(decide (3 ≤ s.r.r2.toNat), .size),
      (ispow2 (2 * (s.r.r2.toNat - 1)) && decide (2 * (s.r.r2.toNat - 1) ≤ s.params.nmax), .size),
      s.blockCheck s.r.r0 s.r.r2.toNat, s.blockCheck s.r.r1 (2 * (s.r.r2.toNat - 1))]
  | .peqInit => [(decide ((bandCount s.r.r2).toNat ≤ s.params.nbq), .size)]
  | .peqSetband b => [configured s.peq.nb, (decide (b < s.peq.nb.toNat), .index)]
  | .peqProc =>
    [configured s.peq.nb, s.lengthCheck, s.blockCheck s.r.r0 s.r.r2.toNat, s.blockCheck s.r.r1 s.r.r2.toNat]
  | .peqReset => [configured s.peq.nb]

/-- A kernel written to `DM[r1..]` and its length `n` to `r7` (46_kernel_design.md R446, R452). -/
def Machine.State.writeKernel (s : State) (kernel : List F) (n : Nat) : State :=
  (s.writeBlock s.r.r1 kernel).setR7 (BitVec.ofNat 32 n)

/-- What a command does once its checks have passed (`exec_eq_command`). -/
def Instr.effect (i : Instr) (s : State) : State :=
  match i with
  | .sysNop => s
  | .sysClrerr => clearFault s
  | .sysReset => s.softReset
  | .dftInit => s.setDftN s.r.r2
  | .dftFwd =>
    (s.writeBlock s.r.r1 ((List.range s.dftN.toNat).map (dftRe s.dftN.toNat (s.readBlock s.r.r0 s.dftN.toNat)))).writeBlock
      s.r.r2 ((List.range s.dftN.toNat).map (dftIm s.dftN.toNat (s.readBlock s.r.r0 s.dftN.toNat)))
  | .dftInv =>
    s.writeBlock s.r.r0
      (Machine.dftInv s.dftN.toNat (s.readBlock s.r.r1 s.dftN.toNat) (s.readBlock s.r.r2 s.dftN.toNat))
  | .fftInit => s.setFftN s.r.r2
  | .fftFwd =>
    (s.writeBlock s.r.r1 (Machine.fftFwd s.fftN.toNat (s.readBlock s.r.r0 s.fftN.toNat)).wr).writeBlock
      s.r.r2 (Machine.fftFwd s.fftN.toNat (s.readBlock s.r.r0 s.fftN.toNat)).wi
  | .fftInv =>
    s.writeBlock s.r.r0
      (Machine.fftInv s.fftN.toNat (s.readBlock s.r.r1 s.fftN.toNat) (s.readBlock s.r.r2 s.fftN.toNat))
  | .winSetRect => s.setWin (s.win.select 0#32 (wRect s.params) s.r.r2)
  | .winSetHann => s.setWin (s.win.select 1#32 (wHann s.params) s.r.r2)
  | .winSetHamm => s.setWin (s.win.select 2#32 (wHamm s.params) s.r.r2)
  | .winSetBlack => s.setWin (s.win.select 3#32 (wBlack s.params) s.r.r2)
  | .winProc =>
    s.writeBlock s.r.r1
      ((List.range s.win.len.toNat).map fun i => fmul (at0 (s.readBlock s.r.r0 s.win.len.toNat) i) (s.winCoef i))
  | .dlInit => s.setDl (s.dl.init s.f.f0 s.f.f1 s.f.f2)
  | .dlSetdelay => s.setDl (s.dl.setDelay s.f.f2)
  | .dlProc =>
    let out := runBlock s.dlSample s.dl (s.readBlock s.r.r0 s.r.r2.toNat)
    (s.setDl out.1).writeBlock s.r.r1 out.2
  | .dlClear => s.setDl s.dl.cleared
  | .spDesignLp => s.setSp (s.sp.lowPass (spPole s.params s.f.f0 s.f.f1))
  | .spDesignHp => s.setSp (s.sp.highPass (spPole s.params s.f.f0 s.f.f1))
  | .spProc =>
    let out := runBlock SinglePole.sample s.sp (s.readBlock s.r.r0 s.r.r2.toNat)
    (s.setSp out.1).writeBlock s.r.r1 out.2
  | .spReset => s.setSp { s.sp with x1 := fzero, y1 := fzero }
  | .bqDesignLp k => s.storeSection k (bqLowPass (bqPre s.params s.f.f0 s.f.f1 s.f.f2 s.f.f3))
  | .bqDesignHp k => s.storeSection k (bqHighPass (bqPre s.params s.f.f0 s.f.f1 s.f.f2 s.f.f3))
  | .bqDesignBp k =>
    s.storeSection k (bqBandPass s.params.bpVariant (bqPre s.params s.f.f0 s.f.f1 s.f.f2 s.f.f3))
  | .bqDesignAp k => s.storeSection k (bqAllPass (bqPre s.params s.f.f0 s.f.f1 s.f.f2 s.f.f3))
  | .bqDesignNotch k => s.storeSection k (bqNotch (bqPre s.params s.f.f0 s.f.f1 s.f.f2 s.f.f3))
  | .bqDesignPeak k => s.storeSection k (bqPeak (bqPre s.params s.f.f0 s.f.f1 s.f.f2 s.f.f3))
  | .bqDesignLs k => s.storeSection k (bqLowShelf (bqPre s.params s.f.f0 s.f.f1 s.f.f2 s.f.f3))
  | .bqDesignHs k => s.storeSection k (bqHighShelf (bqPre s.params s.f.f0 s.f.f1 s.f.f2 s.f.f3))
  | .bqCustom k =>
    s.storeSection k { a0 := s.f.f0, a1 := s.f.f1, a2 := s.f.f2, b0 := s.f.f3, b1 := s.f.f4, b2 := s.f.f5 }
  | .bqProc k =>
    let out := runBlock Biquad.sample (s.section k) (s.readBlock s.r.r0 s.r.r2.toNat)
    (s.setSection k out.1).writeBlock s.r.r1 out.2
  | .bqReset k => s.setSection k (s.section k).quiet
  | .svfDesign =>
    s.setSvf { s.svf with f := fmul ftwo (nsin s.params (fdiv (fmul cPI s.f.f1) s.f.f0)), q := fdiv fone s.f.f2 }
  | .svfProc mask =>
    let out := runBlock Svf.sample s.svf (s.readBlock s.r.r0 s.r.r2.toNat)
    ((((s.setSvf out.1).maskedWrite (mask.testBit 0) s.r.r1 (out.2.map SvfOut.hp)).maskedWrite (mask.testBit 1) s.r.r3
      (out.2.map SvfOut.bp)).maskedWrite (mask.testBit 2) s.r.r4 (out.2.map SvfOut.lp)).maskedWrite (mask.testBit 3) s.r.r5
      (out.2.map SvfOut.br)
  | .svfReset => s.setSvf { s.svf with x1 := fzero, x2 := fzero }
  | .cbInit =>
    (s.setDl (s.dl.init s.f.f0 s.f.f1 fzero)).setCb { mode := 1#32, gain := fzero, x1 := fzero, y1 := fzero }
  | .cbDesignFb =>
    (s.setCb { s.cb with mode := 0#32, gain := s.f.f3 }).setDl (s.dl.setDelay (feedbackDelay s.f.f2 s.dl.fs))
  | .cbDesignFf => (s.setCb { s.cb with mode := 1#32, gain := s.f.f3 }).setDl (s.dl.setDelay s.f.f2)
  | .cbDesignAp => (s.setCb { s.cb with mode := 2#32, gain := s.f.f3 }).setDl (s.dl.setDelay s.f.f2)
  | .cbProc =>
    let out := runBlock (combSample s.dlSample) (s.cb, s.dl) (s.readBlock s.r.r0 s.r.r2.toNat)
    ((s.setCb out.1.1).setDl out.1.2).writeBlock s.r.r1 out.2
  | .cbReset => (s.setCb { s.cb with x1 := fzero, y1 := fzero }).setDl s.dl.cleared
  | .cvInit =>
    s.setCv
      { frame := s.r.r2
        irlen := s.r.r3
        ir := s.cv.ir.writeBlock 0 (s.readBlock s.r.r0 s.r.r3.toNat)
        ov := s.cv.ov.writeBlock 0 (zeros (s.r.r3.toNat - 1)) }
  | .cvProc =>
    let full := convFull (s.readBlock s.r.r0 s.cv.frame.toNat) s.cvResponse s.cv.frame.toNat s.cv.irlen.toNat
    let out := overlapAdd full s.cvTail s.cv.frame.toNat (s.cv.irlen.toNat - 1)
    (s.setCv { s.cv with ov := s.cv.ov.writeBlock 0 out.2 }).writeBlock s.r.r1 out.1
  | .cvReset => s.setCv { s.cv with ov := s.cv.ov.writeBlock 0 (zeros (s.cv.irlen.toNat - 1)) }
  | .fcInit =>
    let n := fcSize s.r.r2.toNat s.r.r3.toNat
    let g := Machine.fftFwd n (s.readBlock s.r.r0 s.r.r3.toNat ++ zeros (n - s.r.r3.toNat))
    s.setFc
      { frame := s.r.r2
        irlen := s.r.r3
        n := BitVec.ofNat 32 n
        hr := s.fc.hr.writeBlock 0 g.wr
        hi := s.fc.hi.writeBlock 0 g.wi
        ov := s.fc.ov.writeBlock 0 (zeros (s.r.r3.toNat - 1)) }
  | .fcProc =>
    let b := s.fc.frame.toNat
    let t := s.fc.irlen.toNat - 1
    let full := fcFull s.fc.n.toNat (b + t) (s.readBlock s.r.r0 b ++ zeros (s.fc.n.toNat - b)) s.fcRe s.fcIm
    let out := overlapAdd full s.fcTail b t
    (s.setFc { s.fc with ov := s.fc.ov.writeBlock 0 out.2 }).writeBlock s.r.r1 out.1
  | .fcReset => s.setFc { s.fc with ov := s.fc.ov.writeBlock 0 (zeros (s.fc.irlen.toNat - 1)) }
  | .wsDesignLp => s.writeKernel (wsLowPass s.params s.f.f0 s.f.f1 (wsLength s.f.f0 s.f.f2)) (wsLength s.f.f0 s.f.f2)
  | .wsDesignHp => s.writeKernel (wsHighPass s.params s.f.f0 s.f.f1 (wsLength s.f.f0 s.f.f2)) (wsLength s.f.f0 s.f.f2)
  | .wsDesignBr =>
    s.writeKernel (wsBandReject s.params s.f.f0 s.f.f1 s.f.f3 (wsLength s.f.f0 s.f.f2)) (wsLength s.f.f0 s.f.f2)
  | .wsDesignBp =>
    s.writeKernel (wsBandPass s.params s.f.f0 s.f.f1 s.f.f3 (wsLength s.f.f0 s.f.f2)) (wsLength s.f.f0 s.f.f2)
  | .cuDesignLin =>
    s.writeKernel (cuDesignKernel s.params false (s.readBlock s.r.r0 s.r.r2.toNat) s.r.r2.toNat) (2 * (s.r.r2.toNat - 1))
  | .cuDesignDb =>
    s.writeKernel (cuDesignKernel s.params true (s.readBlock s.r.r0 s.r.r2.toNat) s.r.r2.toNat) (2 * (s.r.r2.toNat - 1))
  | .peqInit =>
    (s.setBq (mapFirst (fun _ => Biquad.flat) (bandCount s.r.r2).toNat s.bq)).setPeq
      { fs := s.f.f0, nb := bandCount s.r.r2 }
  | .peqSetband b =>
    s.storeSection b (bandDesign b s.peq.nb.toNat (bqPre s.params s.peq.fs s.f.f1 s.f.f2 s.f.f3))
  | .peqProc =>
    let out := runBlock (cascade s.peq.nb.toNat) s.bq (s.readBlock s.r.r0 s.r.r2.toNat)
    (s.setBq out.1).writeBlock s.r.r1 out.2
  | .peqReset => s.setBq (mapFirst Biquad.quiet s.peq.nb.toNat s.bq)

end Sys2Proof

namespace Sys2Proof.Machine

theorem command_congr {i : Instr} {checks : List Check} {s : State} {f g : State → State} (h : f s = g s) :
    command i checks s f = command i checks s g := by
  simp only [command, h]

/-- Every command is its checks and then its whole effect. -/
theorem exec_eq_command (i : Instr) (s : State) : exec i s = command i (i.checks s) s i.effect := by
  cases i <;>
  simp only [exec, execSysNop, execSysClrerr, execSysReset, execDftInit, execDftFwd, execDftInv, execFftInit, execFftFwd,
    execFftInv, winSet, execWinSetRect, execWinSetHann, execWinSetHamm, execWinSetBlack, execWinProc, execDlInit,
    execDlSetdelay, execDlProc, execDlClear, execSpDesignLp, execSpDesignHp, execSpProc, execSpReset, bqDesign,
    execBqDesignLp, execBqDesignHp, execBqDesignBp, execBqDesignAp, execBqDesignNotch, execBqDesignPeak, execBqDesignLs,
    execBqDesignHs, execBqCustom, execBqProc, execBqReset, execSvfDesign, execSvfProc, execSvfReset, cbDesign, execCbInit,
    execCbDesignFb, execCbDesignFf, execCbDesignAp, execCbProc, execCbReset, execCvInit, execCvProc, execCvReset,
    execFcInit, execFcProc, execFcReset, wsDesign, execWsDesignLp, execWsDesignHp, execWsDesignBr, execWsDesignBp,
    cuDesign, execCuDesignLin, execCuDesignDb, execPeqInit, execPeqSetband, execPeqProc, execPeqReset] <;>
  exact command_congr rfl

/-! ### The fault the checks raise -/

@[simp] theorem blockCheck_passes_iff (s : State) (a : U32) (n : Nat) : (s.blockCheck a n).1 = true ↔ s.inRange a n := by
  simp [State.blockCheck]

@[simp] theorem blockCheck_code (s : State) (a : U32) (n : Nat) : (s.blockCheck a n).2 = .addr := rfl

/-- A block that the mask of `SVF.PROC` does not enable is not checked. -/
theorem maskedCheck_passes_iff (s : State) (on : Bool) (a : U32) (n : Nat) :
    (s.maskedCheck on a n).1 = true ↔ ∀ b ∈ if on then [(a, n)] else [], s.inRange b.1 b.2 := by
  cases on <;> simp [State.maskedCheck]

theorem u32_ne_zero_iff (v : U32) : v ≠ 0#32 ↔ 1 ≤ v.toNat := by
  rw [Ne, ← BitVec.toNat_inj, BitVec.toNat_ofNat]
  omega

/-- Checks of one class before others: the class is decided by whether all of them pass. -/
theorem firstFault_append_class {cs rest : List Check} {e : ErrCode} (h : ∀ c ∈ cs, c.2 = e) :
    ((∀ c ∈ cs, c.1 = true) ∧ firstFault (cs ++ rest) = firstFault rest) ∨
      ((¬ ∀ c ∈ cs, c.1 = true) ∧ firstFault (cs ++ rest) = some e) := by
  induction cs with
  | nil => simp
  | cons c cs ih =>
    rw [List.forall_mem_cons] at h ⊢
    rw [List.cons_append, firstFault]
    cases hc : c.1 with
    | true => simpa using ih h.2
    | false => simp [h.1]

/-- A command that needs no configured unit and no index, its checks listed class by class: if the checks of each class pass
exactly when the command's demand of that class is met, their first fault is the command's. -/
theorem firstFault_of_classes {i : Instr} {s : State} {d : Demands} (hd : i.demands s = d) (hsize : d.size? = none)
    (hindex : d.badIndex = false) {params sizes blocks : List Check}
    (hchecks : i.checks s = params ++ (sizes ++ (blocks ++ []))) (hparams : ∀ c ∈ params, c.2 = .param)
    (hsizes : ∀ c ∈ sizes, c.2 = .size) (hblocks : ∀ c ∈ blocks, c.2 = .addr)
    (hparam : (∀ c ∈ params, c.1 = true) ↔ d.badParam = false) (hsz : (∀ c ∈ sizes, c.1 = true) ↔ d.badSize = false)
    (hblock : (∀ c ∈ blocks, c.1 = true) ↔ ∀ b ∈ d.blocks, s.inRange b.1 b.2) :
    firstFault (i.checks s) = i.fault? s := by
  subst hd
  rw [hchecks]
  simp only [Instr.fault?, hsize, hindex, reduceCtorEq, Bool.false_eq_true, if_false]
  obtain ⟨h1, e1⟩ | ⟨h1, e1⟩ := firstFault_append_class (rest := sizes ++ (blocks ++ [])) hparams
  · rw [e1, if_neg (by simpa using hparam.1 h1)]
    obtain ⟨h2, e2⟩ | ⟨h2, e2⟩ := firstFault_append_class (rest := blocks ++ []) hsizes
    · rw [e2, if_neg (by simpa using hsz.1 h2)]
      obtain ⟨h3, e3⟩ | ⟨h3, e3⟩ := firstFault_append_class (rest := []) hblocks
      · rw [e3, if_pos (hblock.1 h3)]
        rfl
      · rw [e3, if_neg (mt hblock.2 h3)]
    · rw [e2, if_pos (by simpa using mt hsz.2 h2)]
  · rw [e1, if_pos (by simpa using mt hparam.2 h1)]

/-- The first check of a command to fail raises the fault of 60_exceptions.md R602. The commands with several checks of a class
go by `firstFault_of_classes`; the others have at most one check of each class, in the order of the classes. -/
theorem firstFault_checks (i : Instr) (s : State) : firstFault (i.checks s) = i.fault? s := by
  cases i
  case dlInit | cbInit =>
    refine firstFault_of_classes (params := [_, _, _, _, _, _]) (sizes := [_]) (blocks := []) rfl rfl rfl rfl ?_ ?_ ?_ ?_ ?_ ?_
    all_goals
      simp [delayDemands, delaySamples, finiteCheck, positiveCheck, nonnegCheck, numberCheck, Instr.demands, and_assoc]
  case wsDesignLp | wsDesignHp | wsDesignBr | wsDesignBp =>
    refine firstFault_of_classes (params := (wsLengthChecks s.params s.f.f0 s.f.f2).take 5)
      (sizes := (wsLengthChecks s.params s.f.f0 s.f.f2).drop 5)
      (blocks := [s.blockCheck s.r.r1 (wsLength s.f.f0 s.f.f2)]) rfl rfl rfl ?checks ?_ ?_ ?_ ?_ ?_ ?_
    case checks =>
      rw [← List.append_assoc, List.take_append_drop]
      rfl
    all_goals
      simp [wsLengthChecks, kernelDemands, wsSpan, finiteCheck, positiveCheck, sizeCheck, Instr.demands, and_assoc]
  case cvInit =>
    refine firstFault_of_classes (params := []) (sizes := [_, _]) (blocks := [_]) rfl rfl rfl rfl ?_ ?_ ?_ ?_ ?_ ?_
    all_goals
      simp [sizeCheck_passes_iff, responseDemands, Instr.demands, and_assoc, BitVec.toNat_eq, Nat.one_le_iff_ne_zero]
  case fcInit =>
    refine firstFault_of_classes (params := []) (sizes := [_, _, _]) (blocks := [_]) rfl rfl rfl rfl ?_ ?_ ?_ ?_ ?_ ?_
    all_goals
      simp [sizeCheck_passes_iff, responseDemands, fcSize, Instr.demands, and_assoc, BitVec.toNat_eq,
        Nat.one_le_iff_ne_zero]
  case cuDesignLin | cuDesignDb =>
    refine firstFault_of_classes (params := []) (sizes := [_, _]) (blocks := [_, _]) rfl rfl rfl rfl ?_ ?_ ?_ ?_ ?_ ?_
    all_goals simp [responseCurveDemands, Instr.demands, and_assoc]
  case svfProc m =>
    refine firstFault_of_classes (params := []) (sizes := [_]) (blocks := [_, _, _, _, _]) rfl rfl rfl rfl ?_ ?_ ?_ ?_ ?_ ?_
    case refine_6 =>
      simp only [Instr.demands, List.forall_mem_cons, List.forall_mem_append, blockCheck_passes_iff, maskedCheck_passes_iff]
      simp [and_assoc]
    all_goals simp [State.lengthCheck, State.maskedCheck, Instr.demands]
  all_goals
    simp [Instr.checks, Instr.fault?, Instr.demands, firstFault, sizeCheck, configured, filterDemands, sectionDemands,
      windowDemands, State.lengthCheck, State.sectionCheck, numberCheck]
  all_goals grind [u32_ne_zero_iff, bandCount_toNat]

/-! ### What a command does -/

/-- A command either enters the fault its rules give it, which changes the record alone, or has all of its effect. -/
theorem exec_cases (i : Instr) (s : State) :
    (∃ c, i.fault? s = some c ∧ exec i s = .next (faultEntry c (encode i) s)) ∨
      (i.fault? s = none ∧ exec i s = .next (i.effect s)) := by
  rw [exec_eq_command, ← firstFault_checks]
  exact command_cases i (i.checks s) s i.effect

/-- A command that meets no cause of a fault has its effect. -/
theorem exec_of_no_fault {i : Instr} {s : State} (h : i.fault? s = none) : exec i s = .next (i.effect s) := by
  obtain ⟨c, hc, -⟩ | ⟨-, he⟩ := exec_cases i s
  · exact absurd (h.symm.trans hc) (by simp)
  · exact he

theorem exec_of_fault {i : Instr} {s : State} {c : ErrCode} (h : i.fault? s = some c) :
    exec i s = .next (faultEntry c (encode i) s) := by
  obtain ⟨d, hd, he⟩ | ⟨hn, -⟩ := exec_cases i s
  · rwa [Option.some.inj (h.symm.trans hd)]
  · exact absurd (h.symm.trans hn) (by simp)

/-- A command that meets no cause of a fault passes each of its checks. -/
theorem checks_pass {i : Instr} {s : State} (h : i.fault? s = none) : ∀ c ∈ i.checks s, c.1 = true :=
  (firstFault_eq_none _).1 ((firstFault_checks i s).trans h)

/-- The state after a command is the state before it with a fault recorded, or that of the effect. -/
theorem exec_eq_next {i : Instr} {s t : State} (h : exec i s = .next t) :
    (∃ c, t = faultEntry c (encode i) s) ∨ (i.fault? s = none ∧ t = i.effect s) := by
  obtain ⟨c, -, he⟩ | ⟨hn, he⟩ := exec_cases i s <;> rw [he] at h <;> cases h
  · exact .inl ⟨c, rfl⟩
  · exact .inr ⟨hn, rfl⟩

end Sys2Proof.Machine
end

section
/-! What every step and every command can do: the host's transactions (48_system.md R500 to R504), the fault record
(60_exceptions.md R600 to R606), the register window (10_state.md R40), reset (70_reset_and_hazards.md R700, R701), and what
each command leaves alone. -/

namespace Sys2Proof.Machine

/-! ### Steps -/

theorem step_of_host_nil {s : State} (h : s.host = []) : step s = .next s := by simp [step, stepHost, h]

theorem step_of_host_cons {s : State} {e : HostEvent} {rest : List HostEvent} (h : s.host = e :: rest) :
    step s = perform e (s.setHost rest) := by simp [step, stepHost, h]

theorem setWidth_zext (w : U32) : (zext w).setWidth 32 = w := by simp [zext]

/-- A transaction that issues a command word is `HostCommand` of that word (48_system.md R500, 20_memory.md R104). -/
theorem perform_of_word {e : HostEvent} {w : CmdWord} (h : e.word? = some w) (s : State) : perform e s = hostCommand w s := by
  cases e
  case writeReg slot v =>
    obtain ⟨rfl, rfl⟩ : slot = 0x010 ∧ v.setWidth 32 = w := by simpa [HostEvent.word?] using h
    rfl
  case command w' =>
    obtain rfl : w' = w := by simpa [HostEvent.word?] using h
    rw [perform, hostWriteReg_cmd, setWidth_zext]
  all_goals simp [HostEvent.word?] at h

/-- A command word that decodes, with the engine not halted, executes its row (48_system.md R504). -/
theorem hostCommand_of_decode {s : State} {w : CmdWord} {i : Instr} (hhalt : s.halt = false) (h : decode w = .ok i) :
    hostCommand w s = exec i s := by simp [hostCommand, hhalt, h]

/-- Settles O5: both kinds of `CMD` write, and the host's list of `withFetchWord`, are one pending command word. -/
theorem a_step_runs_the_decoded_command : Obligations.a_step_runs_the_decoded_command := by
  intro s w i rest hhalt hdecode
  refine ⟨fun hhost => ?_, fun v hv hhost => ?_, ?_⟩
  · rw [step_of_host_cons hhost, perform_of_word rfl]
    exact hostCommand_of_decode (s := s.setHost rest) hhalt hdecode
  · rw [step_of_host_cons hhost, perform_of_word (w := w) (by simp [HostEvent.word?, hv])]
    exact hostCommand_of_decode (s := s.setHost rest) hhalt hdecode
  · have hword : BitVec.ofNat 32 (w.toNat % 2 ^ 32) = w := by rw [Nat.mod_eq_of_lt w.isLt, BitVec.ofNat_toNat, BitVec.setWidth_eq]
    rw [State.withFetchWord, hword, step_of_host_cons rfl, perform_of_word rfl]
    exact hostCommand_of_decode hhalt hdecode

/-- A halted engine drops every word but two (60_exceptions.md R625). -/
theorem hostCommand_of_halt {s : State} {w : CmdWord} (hhalt : s.halt = true) : hostCommand w s =
    if w = 0x01000000#32 then exec .sysClrerr s else if w = 0x02000000#32 then exec .sysReset s else .next s := by
  rw [hostCommand, if_pos hhalt]

/-- Settles O7: the three cases of `HostCommand` in a halted engine. -/
theorem a_halted_engine_drops_commands : Obligations.a_halted_engine_drops_commands := by
  intro s e rest w hhalt hhost hw
  rw [step_of_host_cons hhost, perform_of_word hw, hostCommand_of_halt (s := s.setHost rest) hhalt]
  refine ⟨fun h1 h2 => ?_, fun h => ?_, fun h => ?_⟩
  · rw [if_neg h1, if_neg h2]
    rfl
  · rw [if_pos h]
    rfl
  · rw [h, if_neg (by decide), if_pos rfl]
    rfl

/-- Every command ends in a next state (60_exceptions.md R601). -/
theorem exec_total (i : Instr) (s : State) : ∃ t, exec i s = .next t := by
  obtain ⟨c, -, h⟩ | ⟨-, h⟩ := exec_cases i s <;> exact ⟨_, h⟩

theorem hostCommand_total (w : CmdWord) (s : State) : ∃ t, hostCommand w s = .next t := by
  obtain ⟨-, -, h⟩ | ⟨-, -, h⟩ | ⟨-, -, -, h⟩ | ⟨-, -, h⟩ | ⟨-, i, -, h⟩ := hostCommand_cases w s <;> rw [h]
  · exact exec_total _ _
  · exact exec_total _ _
  · exact ⟨_, rfl⟩
  · exact ⟨_, rfl⟩
  · exact exec_total _ _

theorem perform_total (e : HostEvent) (s : State) : ∃ t, perform e s = .next t := by
  cases e
  case writeReg slot v =>
    by_cases h : slot = 0x010
    · rw [perform, h, hostWriteReg_cmd]
      exact hostCommand_total _ _
    · exact ⟨_, hostWriteReg_other h v s⟩
  case command w =>
    rw [perform_of_word rfl]
    exact hostCommand_total _ _
  all_goals exact ⟨_, rfl⟩

/-- Settles O10: every kind of transaction ends in a next state, and none pending is an idle step. -/
theorem every_transaction_completes : Obligations.every_transaction_completes := by
  refine ⟨fun s => ?_, fun s => step_of_host_nil⟩
  cases h : s.host with
  | nil => exact ⟨s, step_of_host_nil h⟩
  | cons e rest =>
    rw [step_of_host_cons h]
    exact perform_total e _

/-! ### The fault record -/

/-- What `SVF.PROC` changes: its unit and data memory. -/
theorem effect_svfProc (m : Nat) (s : State) : ∃ dm, (Instr.svfProc m).effect s =
    (s.setSvf (runBlock Svf.sample s.svf (s.readBlock s.r.r0 s.r.r2.toNat)).1).setDm dm := by
  simp only [Instr.effect, State.maskedWrite]
  split_ifs <;> exact ⟨_, rfl⟩

/-- Only `SYS.CLRERR` and `SYS.RESET` have an effect on the fault record. -/
theorem effect_record {i : Instr} (s : State) (hclr : i ≠ .sysClrerr) (hreset : i ≠ .sysReset) :
    (i.effect s).halt = s.halt ∧ (i.effect s).errcode = s.errcode ∧ (i.effect s).errcmd = s.errcmd := by
  cases i
  case sysClrerr => exact absurd rfl hclr
  case sysReset => exact absurd rfl hreset
  case svfProc m =>
    obtain ⟨dm, h⟩ := effect_svfProc m s
    simp [h]
  all_goals simp [Instr.effect, State.storeSection, State.writeKernel]

/-- Settles O9: a command is its checks, whose first fault is `Instr.fault?`, and an effect that leaves the record alone. -/
theorem faults_follow_the_rules_in_order : Obligations.faults_follow_the_rules_in_order := by
  refine fun i s => ⟨fun c hc => exec_of_fault hc, fun hnone => ⟨i.effect s, exec_of_no_fault hnone, fun hhalt => ?_⟩⟩
  by_cases hclr : i = .sysClrerr
  · subst hclr
    exact ⟨rfl, fun h => absurd rfl h⟩
  · by_cases hreset : i = .sysReset
    · subst hreset
      exact ⟨rfl, fun _ h => absurd rfl h⟩
    · obtain ⟨h1, h2, h3⟩ := effect_record s hclr hreset
      exact ⟨h1.trans hhalt, fun _ _ => ⟨h2, h3⟩⟩

/-- A host register write leaves the comb's mode alone. -/
theorem State.writeSlot_cb_mode (s : State) (slot : Nat) (v : BitVec 64) : (s.writeSlot slot v).cb.mode = s.cb.mode := by
  rw [State.writeSlot_of_slotReg rfl]
  cases slotReg s.params slot with
  | none => rfl
  | some reg => cases reg <;> rfl

/-- Settles O8: in a halted engine each transaction but those named drops its command, records a reply, writes data memory
or writes the registers of `writeSlot_eq`. -/
theorem a_recorded_fault_is_kept : Obligations.a_recorded_fault_is_kept := by
  intro s t hhalt hstep hother
  cases hhost : s.host with
  | nil =>
    rw [step_of_host_nil hhost] at hstep
    cases hstep
    simp [hhalt]
  | cons e rest =>
    obtain ⟨h1, h2, hreset⟩ := hother e rest hhost
    rw [step_of_host_cons hhost] at hstep
    cases hw : e.word? with
    | some w =>
      have hdrop := (a_halted_engine_drops_commands s e rest w hhalt hhost hw).1 (by simpa [hw] using h1) (by simpa [hw] using h2)
      rw [step_of_host_cons hhost, hstep] at hdrop
      cases hdrop
      simp [hhalt]
    | none =>
      cases e
      case writeReg slot v =>
        have hslot : slot ≠ 0x010 := by
          rintro rfl
          simp [HostEvent.word?] at hw
        rw [perform, hostWriteReg_other hslot] at hstep
        cases hstep
        have hmode := (s.setHost rest).writeSlot_cb_mode slot v
        obtain ⟨_, _, _, _, _, _, hwrite⟩ := (s.setHost rest).writeSlot_eq slot v
        rw [hwrite] at hmode ⊢
        exact ⟨hhalt, rfl, rfl, rfl, rfl, rfl, rfl, hmode, rfl, rfl, rfl, fun h => absurd rfl (h slot v rest), fun _ => rfl⟩
      case readReg slot =>
        cases hstep
        simp [hhalt, State.reply]
      case writeDM a v =>
        cases hstep
        unfold State.hostWriteDM
        split <;> simp [hhalt]
      case readDM a =>
        cases hstep
        simp [hhalt, State.reply]
      case command w => simp [HostEvent.word?] at hw
      case hardwareReset => exact absurd rfl hreset

/-! ### Reset -/

/-- Settles O13: hardware reset is `resetRegisters` with every memory unwritten, and `resetWith` is a state that it keeps. -/
theorem hardware_reset_state : Obligations.hardware_reset_state := by
  refine ⟨fun s _ => ⟨s.hardReset, rfl, readSlot_resetRegisters s, ?_⟩, fun p _ => ⟨?_, ?_⟩, State.reset_eq⟩
  · exact ⟨rfl, fun _ => rfl, rfl, rfl, rfl, rfl, rfl, rfl, rfl, rfl, rfl⟩
  · exact readSlot_resetRegisters (State.resetWith p)
  · exact ⟨rfl, rfl, rfl, rfl, rfl, rfl, rfl, rfl, rfl, rfl⟩

/-! ### The register window -/

theorem slotReg_section (p : Params) {k j : Nat} (hk : k < p.nbq) (hj : j ≤ 8) :
    slotReg p (0x100 + 16 * k + j) = some (.bq k j) := by
  have h1 : (0x100 + 16 * k + j - 0x100) / 16 = k := by omega
  have h2 : (0x100 + 16 * k + j - 0x100) % 16 = j := by omega
  unfold slotReg
  rw [if_neg (by omega), if_neg (by omega), if_neg (by omega), if_neg (by omega), if_pos (by omega), h1, h2]

/-- The reserved slots below `0x100` name no register (10_state.md R40). -/
theorem lowSlot_reserved {slot : Nat} (h : slot ∈ [0x015, 0x016, 0x017, 0x022, 0x023, 0x026, 0x027, 0x02F, 0x035, 0x036, 0x037,
    0x03C, 0x03D, 0x03E, 0x03F, 0x044, 0x045, 0x046, 0x047, 0x04A, 0x04B, 0x04F] ∨ (0x052 ≤ slot ∧ slot < 0x100)) :
    lowSlot slot = none := by
  obtain h | h := h
  · have : ∀ k ∈ [0x015, 0x016, 0x017, 0x022, 0x023, 0x026, 0x027, 0x02F, 0x035, 0x036, 0x037, 0x03C, 0x03D, 0x03E, 0x03F,
      0x044, 0x045, 0x046, 0x047, 0x04A, 0x04B, 0x04F], lowSlot k = none := by decide
    exact this slot h
  · unfold lowSlot
    split <;> first | omega | rfl

/-- A section's registers in the order of their slots (10_state.md R46). -/
theorem readSlot_section (s : State) {k j : Nat} (hk : k < s.params.nbq) (hj : j ≤ 8) :
    s.readSlot (0x100 + 16 * k + j) = (s.section k).get j :=
  State.readSlot_of_slotReg (slotReg_section s.params hk hj)

/-- Settles O15: below `0x100` each slot is looked up; above it the sections' slots and the gaps between them. -/
theorem slots_read_their_registers : Obligations.slots_read_their_registers := by
  intro s _
  refine ⟨rfl, rfl, rfl, ?_, ?_, rfl, rfl, rfl, rfl, rfl, fun k hk => ?_, fun slot hslot => ?_⟩
  · show zext (statusWord s) = _
    cases h : s.halt <;> simp [statusWord, h, zext]
  · show zext (s.errcode.setWidth 32) = _
    simp [zext]
  · have hsection : ∀ j ∈ [0, 1, 2, 3, 4, 5, 6, 7, 8], s.readSlot (0x100 + 16 * k + j) = (s.section k).get j :=
      fun j hj => readSlot_section s hk (by simp at hj; omega)
    rw [List.map_congr_left hsection]
    rfl
  · have hnone : slotReg s.params slot = none := by
      obtain ⟨h, -⟩ | ⟨i, h, rfl, -⟩ | ⟨i, h, rfl, -⟩ | ⟨hle, hlt, -, hlow⟩ | ⟨k, j, hk, hj, rfl, -⟩ | ⟨-, -, hnone⟩ :=
        slotReg_cases s.params slot
      · simp at hslot; omega
      · simp at hslot; omega
      · simp at hslot; omega
      · rw [hlow]
        exact lowSlot_reserved (hslot.imp_right fun h => by omega)
      · simp at hslot; omega
      · exact hnone
    rw [State.readSlot_of_slotReg hnone]
    rfl

/-- What the cells of data memory hold after the host has written one. -/
theorem readDM_hostWriteDM (s : State) (a : Nat) (v : BitVec 64) (c : Nat) :
    (s.hostWriteDM a v).readDM c = if c = a ∧ a < s.params.dmWords then v else s.readDM c := by
  unfold State.hostWriteDM
  split
  case isFalse h => simp [h]
  case isTrue h =>
    refine (Memory.get_writeBlock (s.free .dm) s.dm a [v] c).trans ?_
    by_cases hc : c = a
    · simp [hc, h]
    · rw [if_neg (by simp; omega), if_neg (by simp [hc])]
      rfl

/-- Settles O16: data memory by `readDM_hostWriteDM`; a `CMD` write issues the low 32 bits of the word zero-extended. -/
theorem host_port_transactions : Obligations.host_port_transactions := by
  refine fun s => ⟨fun a v => ⟨_, rfl, ?_, readDM_hostWriteDM s a v⟩, fun a => rfl, fun slot => rfl, fun w => rfl⟩
  unfold State.hostWriteDM
  split <;> rfl

end Sys2Proof.Machine
end

section
/-! What each command leaves alone (10_state.md R31, R32, R40, R54; 70_reset_and_hazards.md R713, R720). Every effect is a
composition of the named updates of Machine/Ops.lean, each of which replaces one part of the state. -/

namespace Sys2Proof.Machine

/-- The write of a block that may be masked is an update of data memory. -/
theorem State.maskedWrite_eq (s : State) (on : Bool) (a : U32) (vs : List F) :
    s.maskedWrite on a vs = s.setDm (if on then s.dm.writeBlock a.toNat vs else s.dm) := by
  cases on <;> rfl

theorem State.writeKernel_r (s : State) (kernel : List F) (n : Nat) :
    (s.writeKernel kernel n).r = { s.r with r7 := BitVec.ofNat 32 n } := by simp [State.writeKernel]

/-- A command but `SYS.RESET` has no effect on `f0..f7`, and none on `r0..r7` but for a kernel's length. -/
theorem effect_arguments {i : Instr} (s : State) (hreset : i ≠ .sysReset) :
    (i.effect s).f = s.f ∧
    (i ∉ [.wsDesignLp, .wsDesignHp, .wsDesignBr, .wsDesignBp, .cuDesignLin, .cuDesignDb] → (i.effect s).r = s.r) ∧
    (i.effect s).r = { s.r with r7 := (i.effect s).r.r7 } := by
  cases i
  case sysReset => exact absurd rfl hreset
  case wsDesignLp | wsDesignHp | wsDesignBr | wsDesignBp | cuDesignLin | cuDesignDb =>
    simp [Instr.effect, State.writeKernel]
  all_goals simp [Instr.effect, State.storeSection, State.maskedWrite_eq]

/-- Settles O19: a fault changes the record alone, and an effect is described by `effect_arguments`. -/
theorem argument_registers_persist : Obligations.argument_registers_persist := by
  intro i s t h hreset
  obtain ⟨c, rfl⟩ | ⟨-, rfl⟩ := exec_eq_next h
  · exact ⟨rfl, fun _ => rfl, rfl⟩
  · exact effect_arguments s hreset

/-- A block through the delay line keeps the registers that a construction sets. -/
theorem runBlock_dlSample_config (s : State) (d : DelayLine) (xs : List F) :
    (runBlock s.dlSample d xs).1.fs = d.fs ∧ (runBlock s.dlSample d xs).1.maxms = d.maxms ∧
      (runBlock s.dlSample d xs).1.len = d.len := by
  refine runBlock_inv (P := fun e : DelayLine => e.fs = d.fs ∧ e.maxms = d.maxms ∧ e.len = d.len) ?_ d xs ⟨rfl, rfl, rfl⟩
  exact fun e x he => he

/-- A sample of the comb feeds the delay line one value or leaves it alone. -/
theorem combOutput_delayLine {P : DelayLine → Prop} {dlSample : DelayLine → F → DelayLine × F}
    (h : ∀ d x, P d → P (dlSample d x).1) (c : Comb) {d : DelayLine} (hd : P d) (x : F) :
    P (combOutput dlSample c d x).1 := by
  unfold combOutput
  split_ifs
  · exact h _ _ hd
  · exact h _ _ hd
  · exact hd

theorem runBlock_combSample_config (s : State) (c : Comb) (d : DelayLine) (xs : List F) :
    (runBlock (combSample s.dlSample) (c, d) xs).1.2.fs = d.fs ∧
      (runBlock (combSample s.dlSample) (c, d) xs).1.2.maxms = d.maxms ∧
      (runBlock (combSample s.dlSample) (c, d) xs).1.2.len = d.len := by
  refine runBlock_inv (P := fun st : Comb × DelayLine => st.2.fs = d.fs ∧ st.2.maxms = d.maxms ∧ st.2.len = d.len) ?_ _ xs
    ⟨rfl, rfl, rfl⟩
  exact fun st x hst =>
    combOutput_delayLine (P := fun e => e.fs = d.fs ∧ e.maxms = d.maxms ∧ e.len = d.len) (fun e x he => he) st.1 hst x

/-- Settles O20: each effect is a composition of updates of the parts its group owns, so that the other parts are read off. -/
theorem commands_change_only_their_own_unit : Obligations.commands_change_only_their_own_unit := by
  intro i s t h hreset
  obtain ⟨c, rfl⟩ | ⟨-, rfl⟩ := exec_eq_next h
  · simp
  · cases i
    case sysReset => exact absurd rfl hreset
    case dlProc => simpa [Instr.effect] using runBlock_dlSample_config s s.dl _
    case cbProc => simpa [Instr.effect] using runBlock_combSample_config s s.cb s.dl _
    all_goals
      simp [Instr.effect, State.storeSection, State.writeKernel, State.maskedWrite_eq, DelayLine.cleared]

end Sys2Proof.Machine
end

section
/-! Powers of two and integers as F values (00_scope.md R16, R19). -/

namespace Sys2Proof.Machine

/-- `nextpow2(n)` is the least power of two not below `n`. -/
theorem nextpow2_spec (n : Nat) : ∃ p, nextpow2 n = 2 ^ p ∧ n ≤ 2 ^ p ∧ ∀ k, n ≤ 2 ^ k → p ≤ k := by
  unfold nextpow2
  split
  case isTrue h => exact ⟨0, rfl, h, fun k _ => Nat.zero_le k⟩
  case isFalse h =>
    refine ⟨_, rfl, ?_, fun k hk => ?_⟩
    · have := Nat.lt_log2_self (n := n - 1)
      omega
    · exact (Nat.log2_lt (by omega)).2 (by omega)

/-- The greatest finite value. -/
theorem magValue_max : magValue (fInfMag - 1) = (2 ^ 53 - 1) * 2 ^ 2045 := by
  have e : fInfMag - 1 = 2045 * 2 ^ 52 + (2 ^ 53 - 1) := by decide
  rw [e, magValue_add _ _ (by decide) (.inr (by decide))]

/-- Every `j * 2^s` with `j` up to `2^53` and below the overflow is an F value. -/
theorem exists_pattern_shift {j s : Nat} (hj : j ≤ 2 ^ 53) (hs : s < 2045) : ∃ m, m < fInfMag ∧ j * 2 ^ s = magValue m := by
  have hmono : 2 ^ (s + 1) ≤ 2 ^ 2045 := Nat.pow_le_pow_right (by decide) hs
  have hle : j * 2 ^ s ≤ magValue (fInfMag - 1) := by
    rw [magValue_max]
    calc j * 2 ^ s ≤ 2 ^ 53 * 2 ^ s := Nat.mul_le_mul_right _ hj
      _ = 2 ^ 52 * 2 ^ (s + 1) := by rw [Nat.pow_succ 2 s]; ring
      _ ≤ (2 ^ 53 - 1) * 2 ^ (s + 1) := Nat.mul_le_mul_right _ (by decide)
      _ ≤ (2 ^ 53 - 1) * 2 ^ 2045 := Nat.mul_le_mul_left _ hmono
  rcases hj.lt_or_eq with hlt | rfl
  · exact exists_pattern j s _ hlt (by decide) hle
  · have hone : 2 ^ 53 * 2 ^ s = 1 * 2 ^ (53 + s) := by rw [Nat.one_mul, Nat.pow_add]
    rw [hone] at hle ⊢
    exact exists_pattern 1 (53 + s) _ (by decide) (by decide) hle

/-- Every integer up to `2^53` is an F value. -/
theorem exists_pattern_int {n : Nat} (h : n ≤ 2 ^ 53) : ∃ m, m < fInfMag ∧ n * fUnit = magValue m :=
  exists_pattern_shift h (by decide)

/-- `float(n)` is exact up to `2^53` (00_scope.md R16). -/
theorem fofInt_exact {n : Int} (h : n.natAbs ≤ 2 ^ 53) :
    isfinite (fofInt n) = true ∧ fval (fofInt n) = n * (fUnit : Int) := by
  obtain ⟨m, hm, e⟩ := exists_pattern_int h
  exact roundSum_exact false hm (by rw [Int.natAbs_mul, Int.natAbs_natCast, e])

theorem fofNat_exact {n : Nat} (h : n ≤ 2 ^ 53) : isfinite (fofNat n) = true ∧ fval (fofNat n) = n * (fUnit : Int) :=
  fofInt_exact (n := (n : Int)) (by simpa using h)

/-- `ceil(v)` is the least integer not below `v`. -/
theorem fceil_le_iff (v : F) (n : Int) : fceil v ≤ n ↔ fval v ≤ n * (fUnit : Int) := by
  have hU : (0 : Int) < (fUnit : Int) := Int.natCast_pos.2 fUnit_pos
  have hdiv := Int.le_ediv_iff_mul_le (a := -n) (b := -fval v) hU
  rw [Int.neg_mul] at hdiv
  rw [fceil]
  omega

/-- A finite value is at most `float(n)` exactly when its `ceil` is at most `n`. -/
theorem fle_fofNat_iff {v : F} (hv : isfinite v = true) {n : Nat} (hn : n ≤ 2 ^ 53) :
    fle v (fofNat n) = true ↔ fceil v ≤ n := by
  obtain ⟨hfin, hval⟩ := fofNat_exact hn
  rw [fle_iff (isNaN_of_isfinite hv) (isNaN_of_isfinite hfin), fkey_le_iff, hval, fceil_le_iff]

/-- Of two numbers one is below the other or the other is at most it. -/
theorem flt_eq_false_iff {x y : F} (hx : isNaN x = false) (hy : isNaN y = false) : flt x y = false ↔ fle y x = true := by
  rw [← Bool.not_eq_true, flt_iff hx hy, fle_iff hy hx, not_lt]

/-- `nextpow2F(v)` is the least power of two that `ceil(v)` does not exceed. -/
theorem nextpow2F_spec (v : F) :
    ∃ p, nextpow2F v = 2 ^ p ∧ fceil v ≤ ((2 ^ p : Nat) : Int) ∧ ∀ k, fceil v ≤ ((2 ^ k : Nat) : Int) → p ≤ k := by
  obtain ⟨p, hp, hle, hleast⟩ := nextpow2_spec (fceil v).toNat
  exact ⟨p, hp, by omega, fun k hk => hleast k (Int.toNat_le.2 hk)⟩

end Sys2Proof.Machine
end

section
/-! The invariant (10_state.md R42 to R51, R54, R71): it holds after reset, and each named update keeps it when the part it
writes is in range; every effect is a composition of such updates. -/

namespace Sys2Proof.Machine

/-! ### Memories -/

theorem Memory.Holds.nil (size : Nat) : Memory.Holds size 0 [] :=
  ⟨Memory.wf_nil, Memory.below_nil size, fun i hi => absurd hi (Nat.not_lt_zero i)⟩

theorem Memory.Holds.mono {size n k : Nat} {m : Memory} (h : Memory.Holds size n m) (hk : k ≤ n) : Memory.Holds size k m :=
  ⟨h.wf, h.below, fun i hi => h.covers i (by omega)⟩

/-- A block inside a memory keeps what has been written. -/
theorem Memory.Holds.writeBlock {size n : Nat} {m : Memory} (h : Memory.Holds size n m) {b : Nat} {vs : List F}
    (hb : vs = [] ∨ b + vs.length ≤ size) : Memory.Holds size n (m.writeBlock b vs) := by
  refine ⟨Memory.wf_writeBlock h.wf b vs, Memory.below_writeBlock h.below b vs hb, fun i hi => ?_⟩
  rw [Memory.read?_writeBlock]
  split
  · simp
    omega
  · exact h.covers i hi

/-- A block from cell 0 on writes the cells it covers. -/
theorem Memory.Holds.fill {size k n : Nat} {m : Memory} (h : Memory.Holds size k m) {vs : List F} (hlen : vs.length = n)
    (hn : n ≤ size) : Memory.Holds size n (m.writeBlock 0 vs) := by
  refine ⟨Memory.wf_writeBlock h.wf 0 vs, Memory.below_writeBlock h.below 0 vs (.inr (by omega)), fun i hi => ?_⟩
  rw [Memory.read?_writeBlock, if_pos (by omega)]
  simp
  omega

/-! ### Named updates -/

section
variable {s : State} (hs : s.Inv)
include hs

theorem State.Inv.setR (v : IntArgs) : (s.setR v).Inv := { hs with }
theorem State.Inv.setF (v : FloatArgs) : (s.setF v).Inv := { hs with }
theorem State.Inv.setSp (v : SinglePole) : (s.setSp v).Inv := { hs with }
theorem State.Inv.setSvf (v : Svf) : (s.setSvf v).Inv := { hs with }
theorem State.Inv.setHost (v : List HostEvent) : (s.setHost v).Inv := { hs with }
theorem State.Inv.setReplies (v : List (BitVec 64)) : (s.setReplies v).Inv := { hs with }
theorem State.Inv.setDftN {v : U32} (h : v.toNat ≤ s.params.dftMax) : (s.setDftN v).Inv := { hs with dft := h }
theorem State.Inv.setFftN {v : U32} (h : v ≠ 0#32 → ispow2 v.toNat = true ∧ 4 ≤ v.toNat ∧ v.toNat ≤ s.params.nmax) :
    (s.setFftN v).Inv := { hs with fft := h }
theorem State.Inv.setWin {v : Window} (h : v.kind.toNat ≤ 3 ∧ v.len.toNat ≤ s.params.winMax)
    (hc : Memory.Holds s.params.winMax v.len.toNat v.coef) : (s.setWin v).Inv :=
  { hs with window := h, coefficients := hc }
theorem State.Inv.setDl {v : DelayLine} (h : v.Inv s.params) : (s.setDl v).Inv := { hs with delayLine := h }
theorem State.Inv.setBq {v : List Biquad} (h : v.length = s.bq.length) : (s.setBq v).Inv :=
  { hs with sections := h.trans hs.sections }
theorem State.Inv.setCb {v : Comb} (h : v.mode.toNat ≤ 2) : (s.setCb v).Inv := { hs with comb := h }
theorem State.Inv.setCv {v : DirectConv} (h : v.Inv s.params) : (s.setCv v).Inv := { hs with direct := h }
theorem State.Inv.setFc {v : FastConv} (h : v.Inv s.params) : (s.setFc v).Inv := { hs with fast := h }
theorem State.Inv.setPeq {v : Peq} (h : v.nb ≠ 0#32 → 2 ≤ v.nb.toNat ∧ v.nb.toNat ≤ s.params.nbq) : (s.setPeq v).Inv :=
  { hs with equaliser := h }
theorem State.Inv.setDm {v : Memory} (h : Memory.Holds s.params.dmWords 0 v) : (s.setDm v).Inv := { hs with data := h }

theorem State.Inv.setSection (k : Nat) (b : Biquad) : (s.setSection k b).Inv := hs.setBq (by simp)

theorem State.Inv.storeSection (k : Nat) (c : BqRaw) : (s.storeSection k c).Inv := hs.setSection _ _

/-- A block of `n` values that is in range. -/
theorem State.Inv.writeBlock {a : U32} {n : Nat} (h : s.inRange a n) {vs : List F} (hlen : vs.length = n) :
    (s.writeBlock a vs).Inv := by
  refine hs.setDm (hs.data.writeBlock (h.imp (fun h0 => ?_) fun hle => hlen ▸ hle))
  exact List.eq_nil_of_length_eq_zero (hlen.trans h0)

theorem State.Inv.maskedWrite {on : Bool} {a : U32} {n : Nat} (h : on = true → s.inRange a n) {vs : List F}
    (hlen : vs.length = n) : (s.maskedWrite on a vs).Inv := by
  cases on with
  | false => exact hs
  | true => exact hs.writeBlock (h rfl) hlen

theorem State.Inv.writeKernel {n : Nat} (h : s.inRange s.r.r1 n) {kernel : List F} (hlen : kernel.length = n) :
    (s.writeKernel kernel n).Inv := (hs.writeBlock h hlen).setR _

theorem State.Inv.faultEntry (c : ErrCode) (w : CmdWord) : (faultEntry c w s).Inv := { hs with record := ⟨c, rfl⟩ }

theorem State.Inv.clearFault : (clearFault s).Inv := { hs with record := ⟨rfl, rfl⟩ }

/-- A host write of a register keeps the invariant: the host writes no size and no memory. -/
theorem State.Inv.writeReg (reg : Reg) (v : BitVec 64) : (s.writeReg reg v).Inv := by
  cases reg
  case r i => exact hs.setR _
  case f i => exact hs.setF _
  case spA0 | spA1 | spB1 | spX1 | spY1 => exact hs.setSp _
  case svF | svQ | svX1 | svX2 => exact hs.setSvf _
  case cbGain | cbX1 | cbY1 => exact hs.setCb hs.comb
  case bq k j => exact hs.setSection _ _
  all_goals exact hs

theorem State.Inv.writeSlot (slot : Nat) (v : BitVec 64) : (s.writeSlot slot v).Inv := by
  rw [State.writeSlot_of_slotReg rfl]
  cases slotReg s.params slot with
  | none => exact hs
  | some reg => exact hs.writeReg reg v

theorem State.Inv.hostWriteDM (a : Nat) (v : BitVec 64) : (s.hostWriteDM a v).Inv := by
  unfold State.hostWriteDM
  split
  case isTrue h => exact hs.setDm (hs.data.writeBlock (.inr h))
  case isFalse => exact hs

end

/-! ### Reset -/

/-- Every memory is in canonical form and inside its size. -/
structure State.MemoriesHold (s : State) : Prop where
  coef : Memory.Holds s.params.winMax 0 s.win.coef
  buf : Memory.Holds s.params.dlMax 0 s.dl.buf
  ir : Memory.Holds s.params.irMax 0 s.cv.ir
  ov : Memory.Holds (s.params.irMax - 1) 0 s.cv.ov
  hr : Memory.Holds s.params.nmax 0 s.fc.hr
  hi : Memory.Holds s.params.nmax 0 s.fc.hi
  fov : Memory.Holds (s.params.irMax - 1) 0 s.fc.ov
  dm : Memory.Holds s.params.dmWords 0 s.dm

theorem State.Inv.memoriesHold {s : State} (hs : s.Inv) : s.MemoriesHold where
  coef := hs.coefficients.mono (Nat.zero_le _)
  buf := hs.delayLine.buffer.mono (Nat.zero_le _)
  ir := hs.direct.response.mono (Nat.zero_le _)
  ov := hs.direct.tail.mono (Nat.zero_le _)
  hr := hs.fast.re.mono (Nat.zero_le _)
  hi := hs.fast.im.mono (Nat.zero_le _)
  fov := hs.fast.tail.mono (Nat.zero_le _)
  dm := hs.data

/-- With every register at its reset value the sizes are 0, so that no memory need hold anything. -/
theorem resetRegisters_inv {s : State} (hwf : s.params.wf = true) (hfits : s.params.fits = true) (hm : s.MemoriesHold) :
    s.resetRegisters.Inv where
  params := hwf
  fits := hfits
  sections := List.length_replicate
  record := ⟨rfl, rfl⟩
  dft := Nat.zero_le _
  fft := fun h => absurd rfl h
  window := ⟨Nat.zero_le _, Nat.zero_le _⟩
  coefficients := hm.coef
  delayLine :=
    { buffer := hm.buf
      length := fun h => absurd rfl h
      cursors := fun h => absurd rfl h
      rate := fun h => absurd rfl h
      limit := fun h => absurd rfl h
      delay := fun h => absurd rfl h
      fraction := fun h => absurd rfl h }
  comb := Nat.le_succ 1
  direct := { sizes := fun h => absurd rfl h, response := hm.ir, tail := hm.ov }
  fast :=
    { sizes := fun h => absurd rfl h
      transform := fun h => absurd rfl h
      re := hm.hr
      im := hm.hi
      tail := hm.fov }
  equaliser := fun h => absurd rfl h
  data := hm.dm

theorem State.Inv.softReset {s : State} (hs : s.Inv) : s.softReset.Inv :=
  resetRegisters_inv hs.params hs.fits hs.memoriesHold

/-- The state with no cell of a memory written, before a hardware reset puts its registers to their reset values. -/
def State.unwritten (s : State) : State :=
  { s with
    win := { s.win with coef := [] }
    dl := { s.dl with buf := [] }
    cv := { s.cv with ir := [], ov := [] }
    fc := { s.fc with hr := [], hi := [], ov := [] }
    dm := []
    resets := s.resets + 1 }

theorem State.hardReset_eq (s : State) : s.hardReset = s.unwritten.resetRegisters := rfl

theorem State.unwritten_memoriesHold (s : State) : s.unwritten.MemoriesHold :=
  ⟨.nil _, .nil _, .nil _, .nil _, .nil _, .nil _, .nil _, .nil _⟩

theorem State.Inv.hardReset {s : State} (hs : s.Inv) : s.hardReset.Inv := by
  rw [State.hardReset_eq]
  exact resetRegisters_inv hs.params hs.fits s.unwritten_memoriesHold

theorem resetWith_inv {p : Params} (hwf : p.wf = true) (hfits : p.fits = true) : (State.resetWith p).Inv :=
  resetRegisters_inv (s := State.resetWith p) hwf hfits ⟨.nil _, .nil _, .nil _, .nil _, .nil _, .nil _, .nil _, .nil _⟩

/-- Settles O17: the state after reset has every register at its reset value and every memory unwritten. -/
theorem reset_meets_the_invariant : Obligations.reset_meets_the_invariant :=
  ⟨resetWith_inv (by decide) (by decide), fun _ => resetWith_inv⟩

/-! ### What the checks of a command give -/

theorem configured_of_no_fault {i : Instr} {s : State} (hf : i.fault? s = none) {v : U32} (h : configured v ∈ i.checks s) :
    v ≠ 0#32 := of_decide_eq_true (checks_pass hf _ h)

theorem inRange_of_no_fault {i : Instr} {s : State} (hf : i.fault? s = none) {a : U32} {n : Nat}
    (h : s.blockCheck a n ∈ i.checks s) : s.inRange a n := (blockCheck_passes_iff s a n).1 (checks_pass hf _ h)

theorem size_of_no_fault {i : Instr} {s : State} (hf : i.fault? s = none) {lo hi n : Nat}
    (h : sizeCheck lo hi n ∈ i.checks s) : lo ≤ n ∧ n ≤ hi := (sizeCheck_passes_iff lo hi n).1 (checks_pass hf _ h)

theorem isNaN_of_no_fault {i : Instr} {s : State} (hf : i.fault? s = none) {x : F} (h : numberCheck x ∈ i.checks s) :
    isNaN x = false := by simpa [numberCheck] using checks_pass hf _ h

theorem pos_of_ne_zero {v : U32} (h : v ≠ 0#32) : 0 < v.toNat := (u32_ne_zero_iff v).1 h

/-! ### The delay line -/

/-- The checks of a delay line's construction (42_delay_line.md R261). -/
theorem dlInitChecks_pass_iff (p : Params) (fs maxms ms : F) : (∀ c ∈ dlInitChecks p fs maxms ms, c.1 = true) ↔
    isfinite fs = true ∧ isfinite maxms = true ∧ flt fzero fs = true ∧ flt maxms fzero = false ∧ isNaN ms = false ∧
      isfinite (delaySamples maxms fs) = true ∧ flt (fofNat p.dlMax) (delaySamples maxms fs) = false := by
  simp [dlInitChecks, finiteCheck, positiveCheck, nonnegCheck, numberCheck]

theorem wf_dlMax {p : Params} (h : p.wf = true) : ∃ q, p.dlMax = 2 ^ q := by
  refine (ispow2_iff _).1 ?_
  simp only [Params.wf, Bool.and_eq_true] at h
  tauto

theorem fits_iff (p : Params) : p.fits = true ↔ p.nmax < 2 ^ 32 ∧ p.dlMax < 2 ^ 32 := by simp [Params.fits]

/-- The buffer of a constructed delay line is a power of two not above `DLMAX`. -/
theorem nextpow2F_le_dlMax {p : Params} (hwf : p.wf = true) (hfits : p.fits = true) {v : F} (hv : isfinite v = true)
    (h : flt (fofNat p.dlMax) v = false) : nextpow2F v ≤ p.dlMax := by
  obtain ⟨q, hq⟩ := wf_dlMax hwf
  have hlt := ((fits_iff p).1 hfits).2
  obtain ⟨k, hk, -, hleast⟩ := nextpow2F_spec v
  have hmax : p.dlMax ≤ 2 ^ 53 := by omega
  rw [flt_eq_false_iff (isNaN_of_isfinite (fofNat_exact hmax).1) (isNaN_of_isfinite hv), fle_fofNat_iff hv hmax, hq] at h
  rw [hk, hq]
  exact Nat.pow_le_pow_right (by decide) (hleast q h)

theorem ispow2_nextpow2F (v : F) : ispow2 (nextpow2F v) = true := by
  obtain ⟨k, hk, -⟩ := nextpow2F_spec v
  exact (ispow2_iff _).2 ⟨k, hk⟩

theorem nextpow2F_pos (v : F) : 0 < nextpow2F v := by
  obtain ⟨k, hk, -⟩ := nextpow2F_spec v
  rw [hk]
  exact Nat.two_pow_pos k

theorem nonneg_of_not_lt {v : F} (hv : isfinite v = true) (h : flt v fzero = false) : fle fzero v = true :=
  (flt_eq_false_iff (isNaN_of_isfinite hv) isNaN_fzero).1 h

/-- A constructed delay line is in its ranges. -/
theorem DelayLine.init_inv {p : Params} (hwf : p.wf = true) (hfits : p.fits = true) {d : DelayLine}
    (hb : Memory.Holds p.dlMax d.len.toNat d.buf) {fs maxms ms : F}
    (hc : ∀ c ∈ dlInitChecks p fs maxms ms, c.1 = true) : (d.init fs maxms ms).Inv p := by
  obtain ⟨hfs, hm, hfs0, hm0, hms, hsd, hsize⟩ := (dlInitChecks_pass_iff p fs maxms ms).1 hc
  have hle := nextpow2F_le_dlMax hwf hfits hsd hsize
  have hlt := ((fits_iff p).1 hfits).2
  have hlen : (BitVec.ofNat 32 (nextpow2F (delaySamples maxms fs))).toNat = nextpow2F (delaySamples maxms fs) := by
    rw [BitVec.toNat_ofNat, Nat.mod_eq_of_lt (by omega)]
  have hpos := nextpow2F_pos (delaySamples maxms fs)
  refine DelayLine.setDelay_inv hms (hlen.symm ▸ hpos) (hb.fill (zeros_length _) (hlen.symm ▸ hle)) ?_ ?_ ⟨hfs, hfs0⟩
    ⟨hm, nonneg_of_not_lt hm hm0, hsd⟩
  · exact ⟨hlen.symm ▸ ispow2_nextpow2F _, hlen.symm ▸ hle⟩
  · exact hlen.symm ▸ hpos

theorem DelayLine.Inv.cleared {p : Params} {d : DelayLine} (hd : d.Inv p) : d.cleared.Inv p := by
  refine { hd with buffer := hd.buffer.fill (by simp [DelayLine.cleared]) ?_ }
  by_cases h : d.len = 0#32
  · simp [DelayLine.cleared, h]
  · exact (hd.length h).2

theorem DelayLine.Inv.setDelay {p : Params} {d : DelayLine} (hd : d.Inv p) (hlen : d.len ≠ 0#32) {ms : F}
    (hms : isNaN ms = false) : (d.setDelay ms).Inv p :=
  DelayLine.setDelay_inv hms (pos_of_ne_zero hlen) hd.buffer (hd.length hlen) (hd.cursors hlen).1 (hd.rate hlen)
    (hd.limit hlen)

/-- A sample through a configured delay line writes one slot of the buffer and moves the cursors inside it. -/
theorem DelayLine.Inv.sample {p : Params} {d : DelayLine} (hd : d.Inv p) (hlen : d.len ≠ 0#32) (n : DlNeigh)
    (free : Nat → F) (x : F) : (d.sample n free x).1.Inv p := by
  obtain ⟨hwr, hrd⟩ := DelayLine.sample_cursors n free d x hlen
  have hpos := pos_of_ne_zero hlen
  have hcur := (hd.cursors hlen).1
  have hle := (hd.length hlen).2
  have hbuf := hd.buffer.writeBlock (b := d.wr.toNat) (vs := [x]) (.inr (by simp only [List.length_singleton]; omega))
  refine { hd with buffer := hbuf, cursors := fun _ => ⟨?_, ?_⟩ }
  · exact hwr ▸ Nat.mod_lt _ hpos
  · exact hrd ▸ Nat.mod_lt _ hpos

/-- A configured delay line in its ranges. -/
abbrev DelayLine.Ready (p : Params) (d : DelayLine) : Prop := d.Inv p ∧ d.len ≠ 0#32

theorem State.dlSample_ready (s : State) {p : Params} (d : DelayLine) (x : F) (h : d.Ready p) :
    (s.dlSample d x).1.Ready p := ⟨h.1.sample h.2 _ _ x, h.2⟩

theorem isNaN_fpack_inf (neg : Bool) : isNaN (fpack neg fInfMag) = false := by
  rw [isNaN, fmag_fpack _ fInfMag_lt]
  decide

/-! Operations with one finite operand, not zero where it scales, give a NaN for a NaN only. -/

theorem isNaN_fmul_number {x y : F} (hx : isNaN x = false) (hy : isfinite y = true) (h0 : isZero y = false) :
    isNaN (fmul x y) = false := by
  cases h : isInf x <;>
    simp [fmul, hx, h, isNaN_of_isfinite hy, isInf_of_isfinite hy, h0, isNaN_fpack_inf]

theorem isNaN_fdiv_number {x y : F} (hx : isNaN x = false) (hy : isfinite y = true) (h0 : isZero y = false) :
    isNaN (fdiv x y) = false := by
  cases h : isInf x <;>
    simp [fdiv, hx, h, isNaN_of_isfinite hy, isInf_of_isfinite hy, h0, isNaN_fpack_inf]

theorem isNaN_fsub_number {x y : F} (hx : isNaN x = false) (hy : isfinite y = true) : isNaN (fsub x y) = false := by
  cases h : isInf x <;>
    simp [fsub, faddAs, hx, h, isNaN_of_isfinite hy, isInf_of_isfinite hy]

/-- A positive value is not zero. -/
theorem isZero_of_pos {x : F} (h : flt fzero x = true) : isZero x = false := by
  rw [isZero, decide_eq_false_iff_not]
  intro h0
  have hkey : fkey x = 0 := by simp [fkey, h0]
  simp [flt, hkey] at h

theorem fval_of_isZero {x : F} (h : isZero x = true) : fval x = 0 := by
  rw [fval, (fscaled_eq_zero x).2 h]
  simp

theorem isZero_fofNat {n : Nat} (h0 : 0 < n) (h : n ≤ 2 ^ 53) : isZero (fofNat n) = false := by
  rw [← Bool.not_eq_true]
  intro hz
  have hval := (fofNat_exact h).2
  rw [fval_of_isZero hz] at hval
  have hU : (0 : Int) < (n : Int) * (fUnit : Int) := Int.mul_pos (by omega) (Int.natCast_pos.2 fUnit_pos)
  exact absurd hval hU.ne

/-- The feedback delay is not a NaN: no step of `((ms * fs / 1000 - 1) * 1000) / fs` is an invalid operation when `ms` is
no NaN and `fs` is finite and positive. -/
theorem isNaN_feedbackDelay {ms fs : F} (hms : isNaN ms = false) (hfs : isfinite fs = true) (h0 : flt fzero fs = true) :
    isNaN (feedbackDelay ms fs) = false := by
  have hz := isZero_of_pos h0
  have hle : 1000 ≤ 2 ^ 53 := by decide
  have hfin := (fofNat_exact hle).1
  have hnz := isZero_fofNat (by decide) hle
  have hone : isfinite fone = true := by decide
  rw [feedbackDelay, delaySamples]
  exact isNaN_fdiv_number (isNaN_fmul_number (isNaN_fsub_number
    (isNaN_fdiv_number (isNaN_fmul_number hms hfs hz) hfin hnz) hone) hfin hnz) hfs hz

/-! ### Transform sizes -/

/-- `fc_size` is the least power of two, at least 4, not below `B + M - 1` (45_convolution.md R411). -/
theorem fcSize_spec (b m : Nat) : ∃ p, 2 ≤ p ∧ fcSize b m = 2 ^ p ∧ b + m - 1 ≤ 2 ^ p ∧
    ∀ k, 2 ≤ k → b + m - 1 ≤ 2 ^ k → p ≤ k := by
  obtain ⟨p, hp, hle, hleast⟩ := nextpow2_spec (b + m - 1)
  have hmono : 2 ^ p ≤ 2 ^ max 2 p := Nat.pow_le_pow_right (by decide) (le_max_right _ _)
  refine ⟨max 2 p, le_max_left _ _, ?_, le_trans hle hmono, fun k hk hk' => max_le hk (hleast k hk')⟩
  rw [fcSize, hp, show 4 = 2 ^ 2 from rfl]
  exact ((pow_right_mono₀ (one_le_two (α := Nat))).map_max).symm

theorem fcSize_bounds (b m : Nat) : ispow2 (fcSize b m) = true ∧ 4 ≤ fcSize b m ∧ b + m - 1 ≤ fcSize b m := by
  obtain ⟨p, -, hp, hle, -⟩ := fcSize_spec b m
  exact ⟨(ispow2_iff _).2 ⟨p, hp⟩, le_max_left _ _, hp ▸ hle⟩

theorem toNat_fcSize {p : Params} (hfits : p.fits = true) {b m : Nat} (h : fcSize b m ≤ p.nmax) :
    (BitVec.ofNat 32 (fcSize b m)).toNat = fcSize b m := by
  have hlt := ((fits_iff p).1 hfits).1
  rw [BitVec.toNat_ofNat, Nat.mod_eq_of_lt (by omega)]

end Sys2Proof.Machine
end

section
/-! Every step keeps the invariant: unit by unit for the commands' effects, and transaction by transaction. -/

namespace Sys2Proof.Machine

/-! ### Lengths of what the commands write -/

@[simp] theorem dftInv_length (n : Nat) (re im : List F) : (dftInv n re im).length = n := by simp [dftInv]

@[simp] theorem wsLowPass_length (p : Params) (fs fc : F) (l : Nat) : (wsLowPass p fs fc l).length = l := by
  simp [wsLowPass]

@[simp] theorem wsInvert_length (k : List F) : (wsInvert k).length = k.length := by simp [wsInvert]

@[simp] theorem wsHighPass_length (p : Params) (fs fc : F) (l : Nat) : (wsHighPass p fs fc l).length = l := by
  simp [wsHighPass]

@[simp] theorem wsBandReject_length (p : Params) (fs flo fhi : F) (l : Nat) : (wsBandReject p fs flo fhi l).length = l := by
  simp [wsBandReject]

@[simp] theorem wsBandPass_length (p : Params) (fs flo fhi : F) (l : Nat) : (wsBandPass p fs flo fhi l).length = l := by
  simp [wsBandPass]

@[simp] theorem cuDesignKernel_length (p : Params) (isdb : Bool) (mag : List F) (r : Nat) :
    (cuDesignKernel p isdb mag r).length = 2 * (r - 1) := by simp [cuDesignKernel]

/-! ### Masked output blocks (43_iir_filters.md R331) -/

@[simp] theorem State.inRange_setSvf (s : State) (v : Svf) (a : U32) (n : Nat) :
    (s.setSvf v).inRange a n ↔ s.inRange a n := Iff.rfl

theorem State.inRange_of_maskedCheck {s : State} {on : Bool} {a : U32} {n : Nat} (h : (s.maskedCheck on a n).1 = true)
    (hon : on = true) : s.inRange a n := by
  subst hon
  simpa [State.maskedCheck] using h

@[simp] theorem State.inRange_maskedWrite (s : State) (on : Bool) (a b : U32) (n : Nat) (vs : List F) :
    (s.maskedWrite on b vs).inRange a n ↔ s.inRange a n := by
  cases on <;> exact Iff.rfl

/-! ### The units -/

section
variable {s : State} (hs : s.Inv)
include hs

/-- Both arrays of a transform written to data memory. -/
theorem State.Inv.writeBlocks {a b : U32} {n : Nat} (ha : s.inRange a n) (hb : s.inRange b n) {vs ws : List F}
    (hv : vs.length = n) (hw : ws.length = n) : ((s.writeBlock a vs).writeBlock b ws).Inv :=
  (hs.writeBlock ha hv).writeBlock (s := s.writeBlock a vs) hb hw

/-- A window selected with a length the checks admit (41_window.md R242). -/
theorem State.Inv.selectWindow {lo : Nat} {kind l : U32} (hkind : kind.toNat ≤ 3) (wfun : Nat → Nat → F)
    (h : lo ≤ l.toNat ∧ l.toNat ≤ s.params.winMax) : (s.setWin (s.win.select kind wfun l)).Inv :=
  hs.setWin ⟨hkind, h.2⟩ (hs.coefficients.fill (n := l.toNat) (by simp) h.2)

theorem State.Inv.dlBlock (hlen : s.dl.len ≠ 0#32) (xs : List F) : (s.setDl (runBlock s.dlSample s.dl xs).1).Inv :=
  hs.setDl (runBlock_inv (P := DelayLine.Ready s.params) s.dlSample_ready s.dl xs ⟨hs.delayLine, hlen⟩).1

theorem State.Inv.combBlock (hlen : s.dl.len ≠ 0#32) (xs : List F) :
    ((s.setCb (runBlock (combSample s.dlSample) (s.cb, s.dl) xs).1.1).setDl
      (runBlock (combSample s.dlSample) (s.cb, s.dl) xs).1.2).Inv := by
  have hrun := runBlock_inv (f := combSample s.dlSample)
    (P := fun st : Comb × DelayLine => st.1.mode = s.cb.mode ∧ st.2.Ready s.params)
    (fun st x hst => ⟨hst.1, combOutput_delayLine s.dlSample_ready st.1 hst.2 x⟩) (s.cb, s.dl) xs
    ⟨rfl, hs.delayLine, hlen⟩
  exact (hs.setCb (hrun.1 ▸ hs.comb)).setDl hrun.2.1

theorem State.Inv.combDesign (hlen : s.dl.len ≠ 0#32) {mode : U32} (hmode : mode.toNat ≤ 2) (gain : F) {ms : F}
    (hms : isNaN ms = false) : ((s.setCb { s.cb with mode := mode, gain := gain }).setDl (s.dl.setDelay ms)).Inv :=
  (hs.setCb (v := { s.cb with mode := mode, gain := gain }) hmode).setDl (hs.delayLine.setDelay hlen hms)

theorem State.Inv.convTail (hframe : s.cv.frame ≠ 0#32) {vs : List F} (hlen : vs.length = s.cv.irlen.toNat - 1) :
    (s.setCv { s.cv with ov := s.cv.ov.writeBlock 0 vs }).Inv := by
  have hsizes := hs.direct.sizes hframe
  have htail := hs.direct.tail.fill hlen (by omega)
  exact hs.setCv { hs.direct with tail := htail }

theorem State.Inv.fastTail (hframe : s.fc.frame ≠ 0#32) {vs : List F} (hlen : vs.length = s.fc.irlen.toNat - 1) :
    (s.setFc { s.fc with ov := s.fc.ov.writeBlock 0 vs }).Inv := by
  have hsizes := hs.fast.sizes hframe
  have htail := hs.fast.tail.fill hlen (by omega)
  exact hs.setFc { hs.fast with tail := htail }

/-- `CV.INIT` within its sizes (45_convolution.md R402). -/
theorem State.Inv.convInit (hb : 1 ≤ s.r.r2.toNat ∧ s.r.r2.toNat ≤ s.params.blkMax)
    (hm : 1 ≤ s.r.r3.toNat ∧ s.r.r3.toNat ≤ s.params.irMax) : (Instr.cvInit.effect s).Inv :=
  hs.setCv
    { sizes := fun _ => ⟨hb.2, hm⟩
      response := hs.direct.response.fill (by simp) hm.2
      tail := hs.direct.tail.fill (by simp) (Nat.sub_le_sub_right hm.2 1) }

/-- `FC.INIT` within its sizes (45_convolution.md R412). -/
theorem State.Inv.fastInit (hb : 1 ≤ s.r.r2.toNat ∧ s.r.r2.toNat ≤ s.params.blkMax)
    (hm : 1 ≤ s.r.r3.toNat ∧ s.r.r3.toNat ≤ s.params.irMax) (hn : fcSize s.r.r2.toNat s.r.r3.toNat ≤ s.params.nmax) :
    (Instr.fcInit.effect s).Inv := by
  have htoNat := toNat_fcSize hs.fits hn
  obtain ⟨hpow, hfour, hfit⟩ := fcSize_bounds s.r.r2.toNat s.r.r3.toNat
  obtain ⟨hwr, hwi⟩ := fftFwd_sized (fcSize s.r.r2.toNat s.r.r3.toNat)
    (s.readBlock s.r.r0 s.r.r3.toNat ++ zeros (fcSize s.r.r2.toNat s.r.r3.toNat - s.r.r3.toNat))
  refine hs.setFc
    { sizes := fun _ => ⟨hb.2, hm⟩
      transform := fun _ => ?_
      re := hs.fast.re.fill (hwr.trans htoNat.symm) (htoNat.le.trans hn)
      im := hs.fast.im.fill (hwi.trans htoNat.symm) (htoNat.le.trans hn)
      tail := hs.fast.tail.fill (by simp) (Nat.sub_le_sub_right hm.2 1) }
  rw [htoNat]
  exact ⟨hpow, hfour, hn, hfit⟩

end

/-! ### Every command -/

/-- A command that meets no cause of a fault keeps the invariant. -/
theorem effect_inv {i : Instr} {s : State} (hs : s.Inv) (hf : i.fault? s = none) : (i.effect s).Inv := by
  cases i
  case sysNop => exact hs
  case sysClrerr => exact hs.clearFault
  case sysReset => exact hs.softReset
  case dftInit => exact hs.setDftN (size_of_no_fault hf (lo := 1) (by simp [Instr.checks])).2
  case fftInit =>
    have hsize := size_of_no_fault hf (lo := 4) (hi := s.params.nmax) (n := s.r.r2.toNat) (by simp [Instr.checks])
    exact hs.setFftN fun _ => ⟨checks_pass hf (ispow2 s.r.r2.toNat, .size) (by simp [Instr.checks]), hsize⟩
  case dftFwd =>
    exact hs.writeBlocks (n := s.dftN.toNat) (inRange_of_no_fault hf (by simp [Instr.checks]))
      (inRange_of_no_fault hf (by simp [Instr.checks])) (by simp) (by simp)
  case dftInv => exact hs.writeBlock (inRange_of_no_fault hf (by simp [Instr.checks])) (dftInv_length s.dftN.toNat _ _)
  case fftFwd =>
    obtain ⟨hwr, hwi⟩ := fftFwd_sized s.fftN.toNat (s.readBlock s.r.r0 s.fftN.toNat)
    exact hs.writeBlocks (inRange_of_no_fault hf (by simp [Instr.checks]))
      (inRange_of_no_fault hf (by simp [Instr.checks])) hwr hwi
  case fftInv => exact hs.writeBlock (inRange_of_no_fault hf (by simp [Instr.checks])) (fftInv_length s.fftN.toNat _ _)
  case winSetRect => exact hs.selectWindow (by decide) _ (size_of_no_fault hf (lo := 1) (by simp [Instr.checks]))
  case winSetHann | winSetHamm | winSetBlack =>
    exact hs.selectWindow (by decide) _ (size_of_no_fault hf (lo := 2) (by simp [Instr.checks]))
  case winProc =>
    exact hs.writeBlock (n := s.win.len.toNat) (inRange_of_no_fault hf (by simp [Instr.checks])) (by simp)
  case dlInit => exact hs.setDl (DelayLine.init_inv hs.params hs.fits hs.delayLine.buffer (checks_pass hf))
  case cbInit =>
    exact (hs.setDl (DelayLine.init_inv hs.params hs.fits hs.delayLine.buffer (checks_pass hf))).setCb (Nat.le_succ 1)
  case dlSetdelay =>
    exact hs.setDl (hs.delayLine.setDelay (configured_of_no_fault hf (by simp [Instr.checks])) (isNaN_of_no_fault hf (by simp [Instr.checks])))
  case cbDesignFb =>
    have hlen := configured_of_no_fault hf (v := s.dl.len) (by simp [Instr.checks])
    obtain ⟨hfin, hpos⟩ := hs.delayLine.rate hlen
    exact hs.combDesign hlen (by decide) _ (isNaN_feedbackDelay (isNaN_of_no_fault hf (by simp [Instr.checks])) hfin hpos)
  case cbDesignFf | cbDesignAp =>
    exact hs.combDesign (configured_of_no_fault hf (by simp [Instr.checks])) (by decide) _
      (isNaN_of_no_fault hf (by simp [Instr.checks]))
  case dlProc =>
    have hlen := configured_of_no_fault hf (v := s.dl.len) (by simp [Instr.checks])
    exact (hs.dlBlock hlen _).writeBlock (n := s.r.r2.toNat) (inRange_of_no_fault hf (by simp [Instr.checks])) (by simp)
  case cbProc =>
    have hlen := configured_of_no_fault hf (v := s.dl.len) (by simp [Instr.checks])
    exact (hs.combBlock hlen _).writeBlock (n := s.r.r2.toNat) (inRange_of_no_fault hf (by simp [Instr.checks])) (by simp)
  case dlClear => exact hs.setDl hs.delayLine.cleared
  case cbReset => exact (hs.setCb (v := { s.cb with x1 := fzero, y1 := fzero }) hs.comb).setDl hs.delayLine.cleared
  case spDesignLp | spDesignHp | spReset => exact hs.setSp _
  case spProc =>
    exact (hs.setSp (runBlock SinglePole.sample s.sp (s.readBlock s.r.r0 s.r.r2.toNat)).1).writeBlock (n := s.r.r2.toNat)
      (inRange_of_no_fault hf (a := s.r.r1) (by simp [Instr.checks])) (by simp)
  case bqProc =>
    exact (hs.setSection _ _).writeBlock (n := s.r.r2.toNat) (inRange_of_no_fault hf (by simp [Instr.checks])) (by simp)
  case bqReset => exact hs.setSection _ _
  case svfDesign | svfReset => exact hs.setSvf _
  case svfProc m =>
    have hcheck := checks_pass hf
    simp only [Instr.checks, List.forall_mem_cons] at hcheck
    obtain ⟨-, -, h0, h1, h2, h3, -⟩ := hcheck
    refine ((((hs.setSvf (runBlock Svf.sample s.svf (s.readBlock s.r.r0 s.r.r2.toNat)).1).maskedWrite
      (State.inRange_of_maskedCheck h0) ?_).maskedWrite (n := s.r.r2.toNat) ?_ ?_).maskedWrite (n := s.r.r2.toNat) ?_
      ?_).maskedWrite (n := s.r.r2.toNat) ?_ ?_
    · simp
    · simpa using State.inRange_of_maskedCheck h1
    · simp
    · simpa using State.inRange_of_maskedCheck h2
    · simp
    · simpa using State.inRange_of_maskedCheck h3
    · simp
  case cvInit =>
    exact hs.convInit (size_of_no_fault hf (by simp [Instr.checks, convSizeChecks]))
      (size_of_no_fault hf (by simp [Instr.checks, convSizeChecks]))
  case fcInit =>
    exact hs.fastInit (size_of_no_fault hf (by simp [Instr.checks, convSizeChecks]))
      (size_of_no_fault hf (by simp [Instr.checks, convSizeChecks]))
      (of_decide_eq_true (checks_pass hf (decide (fcSize s.r.r2.toNat s.r.r3.toNat ≤ s.params.nmax), .size)
        (by simp [Instr.checks])))
  case cvProc =>
    have hframe := configured_of_no_fault hf (v := s.cv.frame) (by simp [Instr.checks])
    exact (hs.convTail hframe (by simp)).writeBlock (n := s.cv.frame.toNat) (inRange_of_no_fault hf (by simp [Instr.checks])) (by simp)
  case cvReset => exact hs.convTail (configured_of_no_fault hf (by simp [Instr.checks])) (by simp)
  case fcProc =>
    have hframe := configured_of_no_fault hf (v := s.fc.frame) (by simp [Instr.checks])
    exact (hs.fastTail hframe (by simp)).writeBlock (n := s.fc.frame.toNat) (inRange_of_no_fault hf (by simp [Instr.checks])) (by simp)
  case fcReset => exact hs.fastTail (configured_of_no_fault hf (by simp [Instr.checks])) (by simp)
  case wsDesignLp | wsDesignHp | wsDesignBr | wsDesignBp =>
    exact hs.writeKernel (inRange_of_no_fault hf (by simp [Instr.checks])) (by simp)
  case cuDesignLin | cuDesignDb =>
    exact hs.writeKernel (inRange_of_no_fault hf (by simp [Instr.checks])) (by simp)
  case peqInit =>
    refine (hs.setBq (by simp)).setPeq fun _ => ?_
    have hnb := checks_pass hf (decide ((bandCount s.r.r2).toNat ≤ s.params.nbq), .size) (by simp [Instr.checks])
    exact ⟨bandCount_toNat s.r.r2 ▸ le_max_left 2 _, of_decide_eq_true hnb⟩
  case peqProc =>
    have hlen := runBlock_inv (f := cascade s.peq.nb.toNat) (P := fun bs => bs.length = s.bq.length)
      (fun bs x h => (cascade_length _ _ _).trans h) s.bq (s.readBlock s.r.r0 s.r.r2.toNat) rfl
    exact (hs.setBq hlen).writeBlock (n := s.r.r2.toNat) (inRange_of_no_fault hf (by simp [Instr.checks])) (by simp)
  case peqReset => exact hs.setBq (by simp)
  all_goals exact hs.storeSection _ _

theorem exec_keeps_inv {i : Instr} {s t : State} (hs : s.Inv) (h : exec i s = .next t) : t.Inv := by
  obtain ⟨c, rfl⟩ | ⟨hf, rfl⟩ := exec_eq_next h
  · exact hs.faultEntry c _
  · exact effect_inv hs hf

theorem hostCommand_keeps_inv {w : CmdWord} {s t : State} (hs : s.Inv) (h : hostCommand w s = .next t) : t.Inv := by
  obtain ⟨-, -, hc⟩ | ⟨-, -, hc⟩ | ⟨-, -, -, hc⟩ | ⟨-, -, hc⟩ | ⟨-, i, -, hc⟩ := hostCommand_cases w s <;> rw [hc] at h
  · exact exec_keeps_inv hs h
  · exact exec_keeps_inv hs h
  · cases h
    exact hs
  · cases h
    exact hs.faultEntry _ _
  · exact exec_keeps_inv hs h

theorem perform_keeps_inv {e : HostEvent} {s t : State} (hs : s.Inv) (h : perform e s = .next t) : t.Inv := by
  cases hw : e.word? with
  | some w => exact hostCommand_keeps_inv hs ((perform_of_word hw s).symm.trans h)
  | none =>
    cases e
    case writeReg slot v =>
      have hslot : slot ≠ 0x010 := by
        rintro rfl
        simp [HostEvent.word?] at hw
      rw [perform, hostWriteReg_other hslot] at h
      cases h
      exact hs.writeSlot slot v
    case readReg | readDM =>
      cases h
      exact hs.setReplies _
    case writeDM a v =>
      cases h
      exact hs.hostWriteDM a v
    case command w => simp [HostEvent.word?] at hw
    case hardwareReset =>
      cases h
      exact hs.hardReset

/-- Settles O18: an idle step keeps the state, and every transaction the invariant. -/
theorem every_step_keeps_the_invariant : Obligations.every_step_keeps_the_invariant := by
  intro s t hs h
  cases hhost : s.host with
  | nil =>
    rw [step_of_host_nil hhost] at h
    cases h
    exact hs
  | cons e rest =>
    rw [step_of_host_cons hhost] at h
    exact perform_keeps_inv (hs.setHost rest) h

end Sys2Proof.Machine
end

section
/-! The transform unit XF (40_transform.md): sums over a counting index, what the DFT and the FFT commands write, and the
exact entries of the DFT table (10_state.md R61). -/

namespace Sys2Proof.Machine

/-! ### Blocks in data memory, as `overlay` -/

/-- What data memory reads after a block write. -/
theorem State.readDM_writeBlock_overlay (s : State) (b : U32) (vs : List F) :
    (s.writeBlock b vs).readDM = overlay b.toNat vs s.readDM :=
  funext (s.readDM_writeBlock b vs)

theorem overlay_inside {vs : List F} {i : Nat} (h : i < vs.length) (a : Nat) (old : Nat → F) :
    overlay a vs old (a + i) = at0 vs i := by
  rw [overlay, if_pos (by omega), Nat.add_sub_cancel_left]
  rfl

/-- The input block of a command, sample by sample. -/
theorem State.readBlock_input (s : State) (n : Nat) : s.readBlock s.r.r0 n = (List.range n).map s.inputSample := rfl

/-- A block filled up with zeros to `n` values. -/
theorem map_range_append_zeros (g : Nat → F) {m n : Nat} (h : m ≤ n) :
    (List.range m).map g ++ zeros (n - m) = (List.range n).map fun i => if i < m then g i else 0#64 := by
  refine List.ext_getElem (by simp [h]) fun i hi _ => ?_
  by_cases him : i < m
  · simp [him]
  · rw [List.getElem_append_right (by simpa using him)]
    simp [him, zeros]

/-! ### Sums over a counting index -/

/-- The value after the first `m` rounds of a sum that starts from `+0.0`. -/
def runningSum (f : F → Nat → F) (m : Nat) : F := (List.range m).foldl f 0#64

theorem runningSum_zero (f : F → Nat → F) : runningSum f 0 = 0#64 := rfl

theorem runningSum_succ (f : F → Nat → F) (m : Nat) : runningSum f (m + 1) = f (runningSum f m) m := by
  simp [runningSum, List.range_succ]

/-- Only the rounds made count. -/
theorem runningSum_congr {f g : F → Nat → F} {m : Nat} (h : ∀ acc i, i < m → f acc i = g acc i) :
    runningSum f m = runningSum g m :=
  List.foldl_ext f g _ fun acc i hi => h acc i (List.mem_range.1 hi)

/-! ### The DFT commands -/

theorem dftRe_readBlock (s : State) (n k : Nat) : dftRe n (s.readBlock s.r.r0 n) k =
    runningSum (fun acc i => fadd acc (fmul (s.inputSample i) (dftC n (k * i % n)))) n :=
  runningSum_congr fun acc i hi => by rw [at0_readBlock _ _ _ _ hi]

theorem dftIm_readBlock (s : State) (n k : Nat) : dftIm n (s.readBlock s.r.r0 n) k =
    runningSum (fun acc i => fsub acc (fmul (s.inputSample i) (dftS n (k * i % n)))) n :=
  runningSum_congr fun acc i hi => by rw [at0_readBlock _ _ _ _ hi]

/-- Settles O25: both spectra are running sums over the input block. -/
theorem dft_forward : Obligations.dft_forward := by
  intro s hf
  refine ⟨_, fun k => runningSum fun acc i => fadd acc (fmul (s.inputSample i) (dftC s.dftN.toNat (k * i % s.dftN.toNat))),
    fun k => runningSum fun acc i => fsub acc (fmul (s.inputSample i) (dftS s.dftN.toNat (k * i % s.dftN.toNat))),
    exec_of_no_fault hf, fun k => ⟨runningSum_zero _, runningSum_zero _⟩, fun k => runningSum_succ _,
    fun k => runningSum_succ _, rfl, fun a => ?_⟩
  simp only [Instr.effect, State.readDM_writeBlock_overlay, ← dftRe_readBlock, ← dftIm_readBlock]

/-- One term of the inverse DFT: bin `k` scaled, its imaginary part negated (40_transform.md R203). -/
def dftInvTerm (n i : Nat) (re im : F) (k : Nat) : F :=
  fadd (fmul (fdiv re (fofNat n)) (dftC n (k * i % n))) (fmul (fneg (fdiv im (fofNat n))) (dftS n (k * i % n)))

theorem at0_map {g : F → F} {v : List F} {k : Nat} (hk : k < v.length) : at0 (v.map g) k = g (at0 v k) := by
  simp [at0, List.getD, hk]

theorem dftInv_eq {n : Nat} {re im : List F} (hr : re.length = n) (hi : im.length = n) :
    dftInv n re im =
      (List.range n).map fun i => runningSum (fun acc k => fadd acc (dftInvTerm n i (at0 re k) (at0 im k) k)) n := by
  refine List.map_congr_left fun i _ => runningSum_congr fun acc k hk => ?_
  rw [at0_map (hr.symm ▸ hk), at0_map (hi.symm ▸ hk), dftInvTerm]

/-- Settles O26: each sample is a running sum over the bins. -/
theorem dft_inverse : Obligations.dft_inverse := by
  intro s hf
  refine ⟨_, fun i => runningSum fun acc k => fadd acc (dftInvTerm s.dftN.toNat i (at0 (s.readBlock s.r.r1 s.dftN.toNat) k)
    (at0 (s.readBlock s.r.r2 s.dftN.toNat) k) k), exec_of_no_fault hf, fun i => runningSum_zero _, fun i k hk => ?_, rfl,
    fun a => ?_⟩
  · refine (runningSum_succ _ k).trans ?_
    rw [at0_readBlock _ _ _ _ hk, at0_readBlock _ _ _ _ hk, dftInvTerm]
  · rw [Instr.effect, State.readDM_writeBlock_overlay, dftInv_eq (by simp) (by simp)]

/-! ### The exact entries of the DFT table -/

theorem cosSinOctant_zero (n : Nat) : cosSinOctant 0 n = (2 ^ 256, 0) := by
  rw [cosSinOctant, Nat.mul_zero, Nat.zero_div]
  decide +kernel

/-- Cosine and sine of whole quarters of a turn, at the scale of the table. -/
def quarterTurns : Nat → Int × Int
  | 0 => (2 ^ 256, 0)
  | 1 => (0, 2 ^ 256)
  | 2 => (-2 ^ 256, 0)
  | _ => (0, -2 ^ 256)

/-- At whole quarters of a turn the reduction to the first octant leaves no angle. -/
theorem cosSinTurn_of_quarters {n m e : Nat} (hn : 0 < n) (he : e < 4) (h : 8 * (m % n) = 2 * e * n) :
    cosSinTurn n m = quarterTurns e := by
  simp only [cosSinTurn, h, Nat.mul_mod_left, Nat.mul_div_cancel _ hn, cosSinOctant_zero]
  interval_cases e <;> rfl

theorem roundFix_zero (p : Nat) : roundFix p 0 = 0#64 := if_pos rfl

theorem roundFix_one : roundFix tableScale (2 ^ 256) = 0x3FF0000000000000#64 := by decide +kernel

theorem roundFix_neg_one : roundFix tableScale (-2 ^ 256) = 0xBFF0000000000000#64 := by decide +kernel

/-- Settles O27: at whole quarters of a turn the entries are zeros and ones. -/
theorem dft_table_exact_entries : Obligations.dft_table_exact_entries := by
  intro n hn
  have h0 : cosSinTurn n 0 = (2 ^ 256, 0) := cosSinTurn_of_quarters (e := 0) hn (by decide) (by simp)
  refine ⟨?_, ?_, fun h4 => ?_⟩
  · rw [dftC, h0, roundFix_one]
  · rw [dftS, h0, roundFix_zero]
  · obtain ⟨q, rfl⟩ := Nat.dvd_of_mod_eq_zero h4
    have quarters : ∀ j, j < 4 → 8 * (j * q % (4 * q)) = 2 * j * (4 * q) := fun j hj => by
      rw [Nat.mod_eq_of_lt (Nat.mul_lt_mul_of_pos_right hj (by omega))]
      ring
    have h1 : cosSinTurn (4 * q) (1 * q) = (0, 2 ^ 256) := cosSinTurn_of_quarters hn (e := 1) (by decide) (quarters 1 (by decide))
    have h2 : cosSinTurn (4 * q) (2 * q) = (-2 ^ 256, 0) := cosSinTurn_of_quarters hn (e := 2) (by decide) (quarters 2 (by decide))
    have h3 : cosSinTurn (4 * q) (3 * q) = (0, -2 ^ 256) := cosSinTurn_of_quarters hn (e := 3) (by decide) (quarters 3 (by decide))
    rw [Nat.mul_div_cancel_left q (by decide), show 4 * q / 2 = 2 * q by omega]
    rw [Nat.one_mul] at h1
    simp only [dftC, dftS, h1, h2, h3, roundFix_zero, roundFix_one, roundFix_neg_one, and_self]

/-! ### The FFT commands -/

theorem packReal_eq (n : Nat) (x : List F) : packReal n x =
    { wr := (List.range n).map fun i => if i < n / 2 then at0 x (2 * i) else 0#64
      wi := (List.range n).map fun i => if i < n / 2 then at0 x (2 * i + 1) else 0#64 } := by
  rw [packReal, map_range_append_zeros _ (by omega), map_range_append_zeros _ (by omega)]

/-- The working arrays before butterfly pass `k` of the stages (40_transform.md R215). -/
def stagesBefore (h : Nat) (w : Work) (k : Nat) : Work := (List.range k).foldl (fun w p => bflyPass w (2 ^ p) h) w

theorem stagesBefore_succ (h : Nat) (w : Work) (k : Nat) :
    stagesBefore h w (k + 1) = bflyPass (stagesBefore h w k) (2 ^ k) h := by
  simp [stagesBefore, List.range_succ]

theorem fftStages_two_pow (p : Nat) (w : Work) : fftStages (2 ^ p) w = stagesBefore (2 ^ p) w p := by
  rw [fftStages, Nat.log2_two_pow]
  rfl

/-- Settles O28: the steps of the transform in order, and what `FFT.FWD` writes. -/
theorem fft_forward : Obligations.fft_forward := by
  refine ⟨fun p x hp => ?_, fun s hf _ => ?_⟩
  · obtain ⟨q, rfl⟩ := Nat.exists_eq_add_of_le' hp
    have hhalf : 2 ^ (q + 2) / 2 = 2 ^ (q + 1) := by rw [Nat.pow_succ, Nat.mul_div_cancel _ (by decide)]
    have hquarter : 2 ^ (q + 2) / 4 = 2 ^ q := by rw [Nat.pow_add, Nat.mul_div_cancel _ (by decide)]
    refine ⟨stagesBefore (2 ^ (q + 1)) (bitReverse (2 ^ (q + 1)) (packReal (2 ^ (q + 2)) x)), ?_,
      fun k _ => stagesBefore_succ _ _ k, ?_⟩
    · rw [packReal_eq, hhalf]
      rfl
    · rw [fftFwd, hhalf, hquarter, fftStages_two_pow]
      rfl
  · obtain ⟨hwr, hwi⟩ := fftFwd_sized s.fftN.toNat (s.readBlock s.r.r0 s.fftN.toNat)
    refine ⟨_, _, exec_of_no_fault hf, rfl, hwr, hwi, rfl, fun a => ?_⟩
    rw [Instr.effect, State.readDM_writeBlock_overlay, State.readDM_writeBlock_overlay]
    rfl

/-- The inverse reads bins `0` to `N/2` only. -/
theorem fftInv_congr {n : Nat} {re im re' im' : List F}
    (h : ∀ k, k < n → k ≤ n / 2 → at0 re k = at0 re' k ∧ at0 im k = at0 im' k) : fftInv n re im = fftInv n re' im' := by
  have hcomb : (List.range n).map (combined n re im) = (List.range n).map (combined n re' im') := by
    refine List.map_congr_left fun k hk => ?_
    have hk := List.mem_range.1 hk
    unfold combined
    split
    case isTrue hle => rw [(h k hk hle).1, (h k hk hle).2]
    case isFalse hlt =>
      obtain ⟨hre, him⟩ := h (n - k) (by omega) (by omega)
      rw [hre, him]
  rw [fftInv, hcomb, fftInv]

/-- The combined array of the inverse, in terms of data memory. -/
theorem combined_readBlock (s : State) (a b : U32) (n : Nat) :
    (List.range n).map (combined n (s.readBlock a n) (s.readBlock b n)) = (List.range n).map fun k =>
      if k ≤ n / 2 then fadd (s.readDM (a.toNat + k)) (s.readDM (b.toNat + k))
      else fadd (s.readDM (a.toNat + (n - k))) (fneg (s.readDM (b.toNat + (n - k)))) := by
  refine List.map_congr_left fun k hk => ?_
  have hk := List.mem_range.1 hk
  unfold combined
  split
  · rw [at0_readBlock _ _ _ _ hk, at0_readBlock _ _ _ _ hk]
  · rw [at0_readBlock _ _ _ _ (by omega), at0_readBlock _ _ _ _ (by omega)]

/-- Settles O29: the combined array in terms of data memory. -/
theorem fft_inverse : Obligations.fft_inverse := by
  intro s hf
  refine ⟨_, _, exec_of_no_fault hf, rfl, rfl, fun a => ?_⟩
  rw [Instr.effect, State.readDM_writeBlock_overlay, fftInv, combined_readBlock]

/-- Settles O30: both runs write the signal of the same lower bins. -/
theorem fft_inverse_ignores_upper_bins : Obligations.fft_inverse_ignores_upper_bins := by
  intro s m hf hbins
  have hf' : Instr.fftInv.fault? { s with dm := m } = none := hf
  refine ⟨_, _, exec_of_no_fault hf, exec_of_no_fault hf', fun i hi => ?_⟩
  have hsignal : fftInv s.fftN.toNat (State.readBlock { s with dm := m } s.r.r1 s.fftN.toNat)
      (State.readBlock { s with dm := m } s.r.r2 s.fftN.toNat) =
      fftInv s.fftN.toNat (s.readBlock s.r.r1 s.fftN.toNat) (s.readBlock s.r.r2 s.fftN.toNat) := by
    refine fftInv_congr fun k hk hle => ?_
    obtain ⟨hre, him⟩ := hbins k hle
    simp only [at0_readBlock _ _ _ _ hk, hre, him, and_self]
  simp only [Instr.effect, State.readDM_writeBlock_overlay, hsignal]
  rw [overlay_inside (by simpa using hi), overlay_inside (by simpa using hi)]

/-! ### The unpack -/

/-- The even part of a pair of mirrored points (40_transform.md R216). -/
def evenPart (u v : F × F) : F × F := (fdiv (fadd u.1 v.1) ftwo, fdiv (fsub u.2 v.2) ftwo)

/-- The odd part of a pair of mirrored points (40_transform.md R216). -/
def oddPart (u v : F × F) : F × F := (fdiv (fadd u.2 v.2) ftwo, fneg (fdiv (fsub u.1 v.1) ftwo))

/-- A point with its imaginary part negated. -/
def conjugate (u : F × F) : F × F := (u.1, fneg u.2)

/-- The four points that round `i` of the unpack leaves in `v`, from the values of `w` (40_transform.md R216). -/
structure Work.Unpacked (h : Nat) (w v : Work) (i : Nat) : Prop where
  even : v.point i = evenPart (w.point i) (w.point (h - i))
  evenMirror : v.point (h - i) = conjugate (evenPart (w.point i) (w.point (h - i)))
  odd : v.point (h + i) = oddPart (w.point i) (w.point (h - i))
  oddMirror : v.point (2 * h - i) = conjugate (oddPart (w.point i) (w.point (h - i)))

/-- Position `x` is none of the four of round `i`. -/
def OffRound (h i x : Nat) : Prop := x ≠ i ∧ x ≠ h - i ∧ x ≠ h + i ∧ x ≠ 2 * h - i

theorem Work.Unpacked.congr {h i : Nat} {w w' v v' : Work} (hu : Work.Unpacked h w v i)
    (hw : w'.point i = w.point i ∧ w'.point (h - i) = w.point (h - i))
    (hv : v'.point i = v.point i ∧ v'.point (h - i) = v.point (h - i) ∧ v'.point (h + i) = v.point (h + i) ∧
      v'.point (2 * h - i) = v.point (2 * h - i)) : Work.Unpacked h w' v' i := by
  obtain ⟨hwi, hwm⟩ := hw
  obtain ⟨hi, him, hhi, hhm⟩ := hv
  exact ⟨by rw [hi, hwi, hwm]; exact hu.even, by rw [him, hwi, hwm]; exact hu.evenMirror,
    by rw [hhi, hwi, hwm]; exact hu.odd, by rw [hhm, hwi, hwm]; exact hu.oddMirror⟩

theorem unpackAt_covers {n : Nat} {w : Work} (hw : w.Covers n) (h i : Nat) : (unpackAt h w i).Covers n :=
  (((hw.put _ _ _).put _ _ _).put _ _ _).put _ _ _

theorem point_unpackAt {h i : Nat} {w : Work} (hw : w.Covers (2 * h)) (hi : 1 ≤ i) (hih : 2 * i < h) (x : Nat) :
    (unpackAt h w i).point x =
      if x = h - i then conjugate (evenPart (w.point i) (w.point (h - i)))
      else if x = i then evenPart (w.point i) (w.point (h - i))
      else if x = h - i + h then conjugate (oddPart (w.point i) (w.point (h - i)))
      else if x = i + h then oddPart (w.point i) (w.point (h - i))
      else w.point x := by
  rw [unpackAt, Work.point_put (((hw.put _ _ _).put _ _ _).put _ _ _) (by omega),
    Work.point_put ((hw.put _ _ _).put _ _ _) (by omega), Work.point_put (hw.put _ _ _) (by omega),
    Work.point_put hw (by omega)]
  rfl

/-- What one round does: its four points from the values before it, and every other position as before. -/
theorem unpackAt_spec {h i : Nat} {w : Work} (hw : w.Covers (2 * h)) (hi : 1 ≤ i) (hih : 2 * i < h) :
    Work.Unpacked h w (unpackAt h w i) i ∧ ∀ x, OffRound h i x → (unpackAt h w i).point x = w.point x := by
  have hpoint := point_unpackAt hw hi hih
  refine ⟨⟨?_, ?_, ?_, ?_⟩, fun x ⟨h1, h2, h3, h4⟩ => ?_⟩
  · rw [hpoint, if_neg (by omega), if_pos rfl]
  · rw [hpoint, if_pos rfl]
  · rw [hpoint, if_neg (by omega), if_neg (by omega), if_neg (by omega), if_pos (by omega)]
  · rw [hpoint, if_neg (by omega), if_neg (by omega), if_pos (by omega)]
  · rw [hpoint, if_neg h2, if_neg h1, if_neg (by omega), if_neg (by omega)]

/-- The loop of the unpack. -/
def unpackRounds (h m : Nat) (w : Work) : Work := (List.range m).foldl (fun w k => unpackAt h w (k + 1)) w

/-- What the loop does: the rounds do not meet, so each combines the values from before all of them. -/
theorem unpackRounds_spec {q m : Nat} {w : Work} (hw : w.Covers (4 * q)) (hm : m < q) :
    (unpackRounds (2 * q) m w).Covers (4 * q) ∧
      (∀ i, 1 ≤ i → i ≤ m → Work.Unpacked (2 * q) w (unpackRounds (2 * q) m w) i) ∧
      ∀ x, (∀ i, 1 ≤ i → i ≤ m → OffRound (2 * q) i x) → (unpackRounds (2 * q) m w).point x = w.point x := by
  induction m with
  | zero => exact ⟨hw, fun i h1 h2 => by omega, fun _ _ => rfl⟩
  | succ m ih =>
    obtain ⟨hcov, hdone, hoff⟩ := ih (by omega)
    have hround : unpackRounds (2 * q) (m + 1) w = unpackAt (2 * q) (unpackRounds (2 * q) m w) (m + 1) := by
      simp [unpackRounds, List.range_succ]
    rw [hround]
    have hsize : (unpackRounds (2 * q) m w).Covers (2 * (2 * q)) := by rwa [show 2 * (2 * q) = 4 * q by omega]
    obtain ⟨hnew, hkeep⟩ := unpackAt_spec (i := m + 1) hsize (by omega) (by omega)
    refine ⟨unpackAt_covers hcov _ _, fun i h1 h2 => ?_, fun x hx => ?_⟩
    · by_cases him : i ≤ m
      · refine (hdone i h1 him).congr ⟨rfl, rfl⟩ ⟨?_, ?_, ?_, ?_⟩ <;> refine hkeep _ ?_ <;> unfold OffRound <;> omega
      · obtain rfl : i = m + 1 := by omega
        refine hnew.congr ⟨(hoff _ ?_).symm, (hoff _ ?_).symm⟩ ⟨rfl, rfl, rfl, rfl⟩ <;> intro i h1 h2 <;>
          unfold OffRound <;> omega
    · rw [hkeep x (hx _ (by omega) le_rfl), hoff x fun i h1 h2 => hx i h1 (by omega)]

/-- What the closing lines of the unpack leave at each position. -/
theorem point_unpackEnds {q : Nat} {w : Work} (hw : w.Covers (4 * q)) (hq : 1 ≤ q) (x : Nat) :
    (unpackEnds (2 * q) q w).point x =
      if x = 2 * q then ((w.point 0).2, fzero)
      else if x = 3 * q then ((w.point q).2, fzero)
      else if x = 0 ∨ x = q then ((w.point x).1, fzero)
      else w.point x := by
  obtain ⟨hr, hc⟩ := hw
  have h0r : q < w.wr.length := by omega
  have h3r : 3 * q < w.wr.length := by omega
  have h2r : 2 * q < w.wr.length := by omega
  have h0c : 0 < w.wi.length := by omega
  have h1c : q < w.wi.length := by omega
  have h2c : 2 * q < w.wi.length := by omega
  have h3c : 3 * q < w.wi.length := by omega
  simp only [Work.point, unpackEnds, at0_set, List.length_set, h2r, h3r, h0c, h1c, h2c, h3c, and_true, eq_comm (b := x)]
  by_cases h2 : x = 2 * q
  · simp [h2, show ¬ 2 * q = q by omega, show q ≠ 0 by omega]
  by_cases h3 : x = 3 * q
  · simp [h3, show ¬ 3 * q = q by omega, show ¬ 3 * q = 2 * q by omega, show q ≠ 0 by omega]
  by_cases h1 : x = q
  · simp [h1, show ¬ q = 3 * q by omega, show ¬ q = 2 * q by omega]
  · simp [h1, h2, h3]
    split <;> rfl

/-- Settles O33: the rounds of the loop, then the closing lines, position by position. -/
theorem unpack_splits_the_spectrum : Obligations.unpack_splits_the_spectrum := by
  intro q w hq hr hc
  obtain ⟨hcov, hdone, hoff⟩ := unpackRounds_spec (w := w) (m := q - 1) ⟨hr.ge, hc.ge⟩ (by omega)
  have hends : unpack (2 * q) q w = unpackEnds (2 * q) q (unpackRounds (2 * q) (q - 1) w) := rfl
  have hpoint := point_unpackEnds hcov hq
  rw [← hends] at hpoint
  have hkept : ∀ x, x = 0 ∨ x = q → (unpackRounds (2 * q) (q - 1) w).point x = w.point x := fun x hx =>
    hoff x fun i h1 h2 => by unfold OffRound; omega
  have hzero : (unpack (2 * q) q w).point 0 = ((w.point 0).1, fzero) := by
    rw [hpoint, if_neg (by omega), if_neg (by omega), if_pos (.inl rfl), hkept 0 (.inl rfl)]
  have hq1 : (unpack (2 * q) q w).point q = ((w.point q).1, fzero) := by
    rw [hpoint, if_neg (by omega), if_neg (by omega), if_pos (.inr rfl), hkept q (.inr rfl)]
  have hq2 : (unpack (2 * q) q w).point (2 * q) = ((w.point 0).2, fzero) := by
    rw [hpoint, if_pos rfl, hkept 0 (.inl rfl)]
  have hq3 : (unpack (2 * q) q w).point (3 * q) = ((w.point q).2, fzero) := by
    rw [hpoint, if_neg (by omega), if_pos rfl, hkept q (.inr rfl)]
  refine ⟨fun i h1 h2 => ?_, ?_⟩
  · have hrounds : ∀ x, x ≠ 0 → x ≠ q → x ≠ 2 * q → x ≠ 3 * q →
        (unpack (2 * q) q w).point x = (unpackRounds (2 * q) (q - 1) w).point x := fun x h0 h1 h2 h3 => by
      rw [hpoint, if_neg h2, if_neg h3, if_neg (by omega)]
    have hu : Work.Unpacked (2 * q) w (unpack (2 * q) q w) i := by
      refine (hdone i h1 (by omega)).congr ⟨rfl, rfl⟩ ⟨?_, ?_, ?_, ?_⟩ <;> refine hrounds _ ?_ ?_ ?_ ?_ <;> omega
    have hoddM := hu.oddMirror
    rw [show 2 * (2 * q) = 4 * q by omega] at hoddM
    obtain ⟨er, ei⟩ := Prod.ext_iff.1 hu.even
    obtain ⟨mr, mi⟩ := Prod.ext_iff.1 hu.evenMirror
    obtain ⟨kr, ki⟩ := Prod.ext_iff.1 hu.odd
    obtain ⟨nr, ni⟩ := Prod.ext_iff.1 hoddM
    exact ⟨er, mr, ei, mi, kr, nr, ki, ni⟩
  · obtain ⟨r0, i0⟩ := Prod.ext_iff.1 hzero
    obtain ⟨r1, i1⟩ := Prod.ext_iff.1 hq1
    obtain ⟨r2, i2⟩ := Prod.ext_iff.1 hq2
    obtain ⟨r3, i3⟩ := Prod.ext_iff.1 hq3
    exact ⟨r0, r1, r2, r3, i0, i1, i2, i3⟩

end Sys2Proof.Machine
end

section
/-! The window unit WIN (41_window.md): what a selection stores and what an application writes. -/

namespace Sys2Proof.Machine

/-- A hidden memory filled from its cell 0 on. -/
theorem Memory.get_fill (free : Nat → F) (m : Memory) (vs : List F) (i : Nat) :
    Memory.get free (m.writeBlock 0 vs) i = if i < vs.length then at0 vs i else Memory.get free m i := by
  simp [Memory.get_writeBlock, at0, fzero]

theorem Memory.get_fill_map (free : Nat → F) (m : Memory) (g : Nat → F) (n i : Nat) :
    Memory.get free (m.writeBlock 0 ((List.range n).map g)) i = if i < n then g i else Memory.get free m i := by
  rw [Memory.get_fill, List.length_map, List.length_range]
  split
  case isTrue h => rw [at0_map_range _ _ _ h]
  case isFalse => rfl

theorem Memory.get_fill_zeros (free : Nat → F) (m : Memory) (n i : Nat) :
    Memory.get free (m.writeBlock 0 (zeros n)) i = if i < n then 0#64 else Memory.get free m i := by
  rw [Memory.get_fill, zeros_length, at0_zeros]
  rfl

/-- The coefficients after a selection (41_window.md R242). -/
theorem State.winCoef_select (s : State) (kind : U32) (wfun : Nat → Nat → F) (l : U32) (i : Nat) :
    (s.setWin (s.win.select kind wfun l)).winCoef i = if i < l.toNat then wfun l.toNat i else s.winCoef i :=
  Memory.get_fill_map _ _ _ _ _

/-- Settles O34: the four selections are one, with a kind and a formula each. -/
theorem window_selection : Obligations.window_selection := by
  intro s c hc hf
  simp only [List.mem_cons, List.not_mem_nil, or_false] at hc
  obtain rfl | rfl | rfl | rfl := hc <;>
    refine ⟨_, exec_of_no_fault hf, rfl, fun i => (s.winCoef_select _ _ _ i).trans ?_⟩ <;>
    simp only [wRect, wHann, wHamm, wBlack, winCos, fone, cTWO_PI, cFOUR_PI]

/-- Settles O35: the input block is read before the output block is written. -/
theorem window_application : Obligations.window_application := by
  intro s hf
  refine ⟨_, exec_of_no_fault hf, rfl, fun a => ?_⟩
  rw [Instr.effect, State.readDM_writeBlock_overlay]
  congr 1
  exact List.map_congr_left fun i hi => by rw [at0_readBlock _ _ _ _ (List.mem_range.1 hi)]

end Sys2Proof.Machine
end

section
/-! The recursive filters (43_iir_filters.md) and the comb's processing (44_comb.md R366): each block command as a sequence of
unit states, the designs of the biquad sections. -/

namespace Sys2Proof.Machine

/-! ### A block as a sequence of unit states -/

/-- The unit's state before sample `i`. -/
def unitState {σ α : Type} (f : σ → F → σ × α) (st : σ) (x : Nat → F) : Nat → σ
  | 0 => st
  | i + 1 => (f (unitState f st x i) (x i)).1

/-- The output for sample `i`. -/
def unitOutput {σ α : Type} (f : σ → F → σ × α) (st : σ) (x : Nat → F) (i : Nat) : α := (f (unitState f st x i) (x i)).2

theorem runBlock_map_range {σ α : Type} (f : σ → F → σ × α) (st : σ) (x : Nat → F) (n : Nat) :
    runBlock f st ((List.range n).map x) = (unitState f st x n, (List.range n).map (unitOutput f st x)) :=
  runBlock_eq x (unitState f st x) (unitOutput f st x) (fun _ => rfl) n

/-- The run of a unit over a command's input block. -/
theorem runBlock_input {σ α : Type} (f : σ → F → σ × α) (st : σ) (s : State) (n : Nat) :
    runBlock f st (s.readBlock s.r.r0 n) =
      (unitState f st s.inputSample n, (List.range n).map (unitOutput f st s.inputSample)) :=
  runBlock_map_range f st s.inputSample n

@[simp] theorem lag1_zero (c : F) (v : Nat → F) : lag1 c v 0 = c := rfl
@[simp] theorem lag1_succ (c : F) (v : Nat → F) (i : Nat) : lag1 c v (i + 1) = v i := rfl
@[simp] theorem lag2_zero (c1 c2 : F) (v : Nat → F) : lag2 c1 c2 v 0 = c2 := rfl
@[simp] theorem lag2_succ (c1 c2 : F) (v : Nat → F) (i : Nat) : lag2 c1 c2 v (i + 1) = lag1 c1 v i := rfl

/-! ### SP -/

/-- The state registers before sample `i` are the last input and output. -/
theorem SinglePole.unitState_eq (sp : SinglePole) (x : Nat → F) (i : Nat) : unitState SinglePole.sample sp x i =
    { sp with x1 := lag1 sp.x1 x i, y1 := lag1 sp.y1 (unitOutput SinglePole.sample sp x) i } := by
  induction i with
  | zero => rfl
  | succ i ih =>
    rw [unitState, lag1_succ, lag1_succ, unitOutput, ih]
    rfl

/-- The recurrence of R303. -/
theorem SinglePole.unitOutput_eq (sp : SinglePole) (x : Nat → F) (i : Nat) : unitOutput SinglePole.sample sp x i =
    fadd (fadd (fmul sp.a0 (x i)) (fmul sp.a1 (lag1 sp.x1 x i)))
      (fmul sp.b1 (lag1 sp.y1 (unitOutput SinglePole.sample sp x) i)) := by
  rw [unitOutput, SinglePole.unitState_eq]
  rfl

theorem effect_spProc (s : State) : Instr.spProc.effect s =
    (s.setSp (unitState SinglePole.sample s.sp s.inputSample s.r.r2.toNat)).writeBlock s.r.r1
      ((List.range s.r.r2.toNat).map (unitOutput SinglePole.sample s.sp s.inputSample)) := by
  simp only [Instr.effect, runBlock_input]

/-- Settles O41: the recurrence, sample by sample. -/
theorem single_pole_processing : Obligations.single_pole_processing := by
  intro s hf
  refine ⟨_, unitOutput SinglePole.sample s.sp s.inputSample, exec_of_no_fault hf, SinglePole.unitOutput_eq _ _, ?_,
    fun a => ?_⟩
  · rw [effect_spProc, SinglePole.unitState_eq]
    rfl
  · rw [effect_spProc, State.readDM_writeBlock_overlay]
    rfl

/-! ### BQ -/

theorem Biquad.unitState_eq (b : Biquad) (x : Nat → F) (i : Nat) : unitState Biquad.sample b x i =
    { b with x1 := lag1 b.x1 x i, x2 := lag2 b.x1 b.x2 x i, y1 := lag1 b.y1 (unitOutput Biquad.sample b x) i,
             y2 := lag2 b.y1 b.y2 (unitOutput Biquad.sample b x) i } := by
  induction i with
  | zero => rfl
  | succ i ih =>
    rw [unitState, lag1_succ, lag1_succ, lag2_succ, lag2_succ, unitOutput, ih]
    rfl

/-- Direct form I (43_iir_filters.md R325). -/
theorem Biquad.unitOutput_eq (b : Biquad) (x : Nat → F) (i : Nat) : unitOutput Biquad.sample b x i =
    fsub (fsub (fadd (fadd (fmul b.b0 (x i)) (fmul b.b1 (lag1 b.x1 x i))) (fmul b.b2 (lag2 b.x1 b.x2 x i)))
      (fmul b.a1 (lag1 b.y1 (unitOutput Biquad.sample b x) i)))
      (fmul b.a2 (lag2 b.y1 b.y2 (unitOutput Biquad.sample b x) i)) := by
  rw [unitOutput, Biquad.unitState_eq]
  rfl

theorem effect_bqProc (s : State) (k : Nat) : (Instr.bqProc k).effect s =
    (s.setSection k (unitState Biquad.sample (s.section k) s.inputSample s.r.r2.toNat)).writeBlock s.r.r1
      ((List.range s.r.r2.toNat).map (unitOutput Biquad.sample (s.section k) s.inputSample)) := by
  simp only [Instr.effect, runBlock_input]

theorem section_of_no_fault {i : Instr} {s : State} {k : Nat} (hf : i.fault? s = none) (h : s.sectionCheck k ∈ i.checks s) :
    k < s.params.nbq := of_decide_eq_true (checks_pass hf _ h)

/-- Replacing a section changes it and no other. -/
theorem State.Inv.section_setSection {s : State} (hs : s.Inv) {k : Nat} (hk : k < s.params.nbq) (b : Biquad) (j : Nat) :
    (s.setSection k b).section j = if j = k then b else s.section j := by
  simp only [State.section_setSection, hs.sections, hk, and_true]

/-- Settles O44: the recurrence on one section, sample by sample. -/
theorem biquad_processing : Obligations.biquad_processing := by
  rintro s k b hf hs rfl
  have hk := section_of_no_fault hf (k := k) (by simp [Instr.checks])
  refine ⟨_, unitOutput Biquad.sample (s.section k) s.inputSample, exec_of_no_fault hf, Biquad.unitOutput_eq _ _, rfl,
    fun j => ?_, fun a => ?_⟩
  · rw [effect_bqProc, ← Biquad.unitState_eq, ← hs.section_setSection hk]
    rfl
  · rw [effect_bqProc, State.readDM_writeBlock_overlay]
    rfl

/-- A command that checks its section number only. -/
theorem exec_of_section {i : Instr} {s : State} {k : Nat} (h : i.checks s = [s.sectionCheck k]) (hk : k < s.params.nbq) :
    exec i s = .next (i.effect s) := by
  refine exec_of_no_fault ?_
  rw [← firstFault_checks, firstFault_eq_none, h]
  simpa [State.sectionCheck] using hk

/-- Settles O42: each design stores its raw coefficients divided by `a0`. -/
theorem biquad_designs : Obligations.biquad_designs := by
  rintro s k w0 cw sw al g sq one two m2 hk hs rfl rfl rfl rfl rfl rfl rfl rfl rfl c hc
  have hstore := fun raw => hs.section_setSection hk ((s.section k).store raw)
  simp only [List.mem_cons, List.not_mem_nil, or_false] at hc
  obtain rfl | rfl | rfl | rfl | rfl | rfl | rfl | rfl := hc <;>
    refine ⟨_, exec_of_section rfl hk, rfl, fun j => (hstore _ j).trans ?_⟩
  case inr.inr.inl =>
    cases hv : s.params.bpVariant <;>
      simp only [bqBandPass, bqPlain, minusTwoCw, bqPre, Biquad.store, fone, ftwo, fzero, cTWO_PI]
  all_goals
    simp only [bqLowPass, bqHighPass, bqAllPass, bqNotch, bqPeak, bqLowShelf, bqHighShelf, bqPlain, minusTwoCw, shelfSum,
      shelfDiff, shelfRoot, ampPlus, ampMinus, bqPre, Biquad.store, fone, ftwo, cTWO_PI]

/-- Settles O43: one section replaced. -/
theorem biquad_custom_and_reset : Obligations.biquad_custom_and_reset := by
  intro s k hk hs
  exact ⟨⟨_, exec_of_section rfl hk, rfl, hs.section_setSection hk _⟩, ⟨_, exec_of_section rfl hk, rfl, hs.section_setSection hk _⟩⟩

/-! ### SVF -/

theorem Svf.unitState_eq (v : Svf) (x : Nat → F) (i : Nat) : unitState Svf.sample v x i =
    { v with x1 := lag1 v.x1 (fun i => (unitOutput Svf.sample v x i).bp) i,
             x2 := lag1 v.x2 (fun i => (unitOutput Svf.sample v x i).lp) i } := by
  induction i with
  | zero => rfl
  | succ i ih =>
    rw [unitState, lag1_succ, lag1_succ, unitOutput, ih]
    rfl

theorem State.readDM_maskedWrite (s : State) (on : Bool) (a : U32) (vs : List F) :
    (s.maskedWrite on a vs).readDM = (if on then overlay a.toNat vs else id) s.readDM := by
  cases on
  · rfl
  · exact s.readDM_writeBlock_overlay a vs

theorem effect_svfProc_eq (s : State) (m : Nat) : (Instr.svfProc m).effect s =
    ((((s.setSvf (unitState Svf.sample s.svf s.inputSample s.r.r2.toNat)).maskedWrite (m.testBit 0) s.r.r1
      ((List.range s.r.r2.toNat).map fun i => (unitOutput Svf.sample s.svf s.inputSample i).hp)).maskedWrite (m.testBit 1)
      s.r.r3 ((List.range s.r.r2.toNat).map fun i => (unitOutput Svf.sample s.svf s.inputSample i).bp)).maskedWrite
      (m.testBit 2) s.r.r4
      ((List.range s.r.r2.toNat).map fun i => (unitOutput Svf.sample s.svf s.inputSample i).lp)).maskedWrite (m.testBit 3)
      s.r.r5 ((List.range s.r.r2.toNat).map fun i => (unitOutput Svf.sample s.svf s.inputSample i).br) := by
  simp only [Instr.effect, runBlock_input, List.map_map, Function.comp_def]

/-- Settles O46: the four outputs from one state, and the masked blocks in their order. -/
theorem state_variable_processing : Obligations.state_variable_processing := by
  intro s m hf
  refine ⟨_, fun i => (unitOutput Svf.sample s.svf s.inputSample i).hp,
    fun i => (unitOutput Svf.sample s.svf s.inputSample i).bp, fun i => (unitOutput Svf.sample s.svf s.inputSample i).lp,
    fun i => (unitOutput Svf.sample s.svf s.inputSample i).br, exec_of_no_fault hf, fun i => ?_, fun i => ?_, fun i => ?_,
    fun i => rfl, ?_, fun a => ?_⟩
  iterate 3
    · simp only [unitOutput]
      rw [Svf.unitState_eq]
      rfl
  · rw [effect_svfProc_eq, Svf.unitState_eq]
    simp only [State.maskedWrite_eq]
    rfl
  · rw [effect_svfProc_eq]
    simp only [State.readDM_maskedWrite]
    rfl

end Sys2Proof.Machine
end

section
/-! The comb filter CB on the engine's delay line (44_comb.md). -/

namespace Sys2Proof.Machine

/-! ### Construction, reset and designs -/

/-- Settles O48: what `DL.INIT` and `DL.CLEAR` do, and the comb's own registers. -/
theorem comb_construction_and_reset : Obligations.comb_construction_and_reset := by
  refine fun s => ⟨fun hf => ?_, fun hf => ?_⟩
  · have hinit : Instr.dlInit.fault? { s with f := { s.f with f2 := 0#64 } } = none := hf
    exact ⟨_, _, exec_of_no_fault hf, exec_of_no_fault hinit, rfl, rfl⟩
  · have hclear : Instr.dlClear.fault? s = none := hf
    exact ⟨_, _, exec_of_no_fault hf, exec_of_no_fault hclear, rfl, rfl⟩

/-- `DL.SETDELAY` on a configured delay line with a delay that is a number. -/
theorem exec_dlSetdelay {s : State} (hlen : s.dl.len ≠ 0#32) (hms : isNaN s.f.f2 = false) :
    exec .dlSetdelay s = .next (s.setDl (s.dl.setDelay s.f.f2)) := by
  refine exec_of_no_fault ?_
  rw [← firstFault_checks, firstFault_eq_none]
  simp [Instr.checks, configured, numberCheck, hlen, hms]

/-- Settles O49: the mode and the gain, and the delay set as `DL.SETDELAY` sets it. -/
theorem comb_designs : Obligations.comb_designs := by
  intro s hs c hc
  simp only [List.mem_cons, List.not_mem_nil, or_false] at hc
  obtain rfl | rfl | rfl := hc
  · intro hf
    have hlen := configured_of_no_fault hf (v := s.dl.len) (by simp [Instr.checks])
    obtain ⟨hfin, hpos⟩ := hs.delayLine.rate hlen
    have hnum := isNaN_feedbackDelay (isNaN_of_no_fault hf (x := s.f.f2) (by simp [Instr.checks])) hfin hpos
    exact ⟨hnum, _, _, exec_of_no_fault hf, exec_dlSetdelay hlen hnum, rfl, rfl⟩
  all_goals
    intro hf
    have hlen := configured_of_no_fault hf (v := s.dl.len) (by simp [Instr.checks])
    have hnum := isNaN_of_no_fault hf (x := s.f.f2) (by simp [Instr.checks])
    exact ⟨hnum, _, _, exec_of_no_fault hf, exec_dlSetdelay hlen hnum, rfl, rfl⟩

/-! ### Processing -/

/-- What the delay line is fed where the mode feeds it (44_comb.md R366). -/
def combFeed (c : Comb) (x : F) : F := if c.mode = 0#32 then c.y1 else x

/-- The two modes that feed the delay line. -/
theorem combOutput_of_feed {c : Comb} (h : c.mode = 0#32 ∨ c.mode = 1#32) (f : DelayLine → F → DelayLine × F)
    (d : DelayLine) (x : F) :
    combOutput f c d x = ((f d (combFeed c x)).1, fadd x (fmul c.gain (f d (combFeed c x)).2)) := by
  obtain h | h := h <;> simp [combOutput, combFeed, h]

/-- The allpass leaves the delay line alone. -/
theorem combOutput_of_allpass {c : Comb} (h0 : c.mode ≠ 0#32) (h1 : c.mode ≠ 1#32) (f : DelayLine → F → DelayLine × F)
    (d : DelayLine) (x : F) : combOutput f c d x = (d, fadd (fsub (fmul c.gain x) (fmul c.gain c.y1)) c.x1) := by
  simp [combOutput, h0, h1]

section
variable (f : DelayLine → F → DelayLine × F) (c : Comb) (d : DelayLine) (x : Nat → F)

/-- The comb's outputs over a block. -/
def combOut (i : Nat) : F := unitOutput (combSample f) (c, d) x i

/-- The comb's registers before sample `i`. -/
def combAt (i : Nat) : Comb := { c with x1 := lag1 c.x1 x i, y1 := lag1 c.y1 (combOut f c d x) i }

/-- The delay line before sample `i`. -/
def combLine (i : Nat) : DelayLine := (unitState (combSample f) (c, d) x i).2

theorem unitState_comb (i : Nat) : unitState (combSample f) (c, d) x i = (combAt f c d x i, combLine f c d x i) := by
  refine Prod.ext ?_ rfl
  induction i with
  | zero => rfl
  | succ i ih =>
    have hst : unitState (combSample f) (c, d) x i = (combAt f c d x i, combLine f c d x i) := Prod.ext ih rfl
    rw [unitState, combAt, lag1_succ, lag1_succ, combOut, unitOutput, hst]
    rfl

theorem combOut_eq (i : Nat) : combOut f c d x i = (combOutput f (combAt f c d x i) (combLine f c d x i) (x i)).2 := by
  rw [combOut, unitOutput, unitState_comb]
  rfl

theorem combLine_succ (i : Nat) :
    combLine f c d x (i + 1) = (combOutput f (combAt f c d x i) (combLine f c d x i) (x i)).1 := by
  rw [combLine, unitState, unitState_comb]
  rfl

/-- What the delay line puts out for sample `i`. -/
def combDelayed (i : Nat) : F := (f (combLine f c d x i) (combFeed (combAt f c d x i) (x i))).2

/-- The delay line runs over what it is fed. -/
theorem runBlock_combFeed (h : c.mode = 0#32 ∨ c.mode = 1#32) (n : Nat) :
    runBlock f d ((List.range n).map fun i => combFeed (combAt f c d x i) (x i)) =
      (combLine f c d x n, (List.range n).map (combDelayed f c d x)) := by
  refine runBlock_eq _ (combLine f c d x) (combDelayed f c d x) (fun i => ?_) n
  rw [combLine_succ, combOutput_of_feed (c := combAt f c d x i) h]
  rfl

theorem combOut_of_feed (h : c.mode = 0#32 ∨ c.mode = 1#32) (i : Nat) :
    combOut f c d x i = fadd (x i) (fmul c.gain (combDelayed f c d x i)) := by
  rw [combOut_eq, combOutput_of_feed (c := combAt f c d x i) h]
  rfl

theorem combLine_of_allpass (h0 : c.mode ≠ 0#32) (h1 : c.mode ≠ 1#32) (i : Nat) : combLine f c d x i = d := by
  induction i with
  | zero => rfl
  | succ i ih => rw [combLine_succ, combOutput_of_allpass (c := combAt f c d x i) h0 h1, ih]

theorem combOut_of_allpass (h0 : c.mode ≠ 0#32) (h1 : c.mode ≠ 1#32) (i : Nat) : combOut f c d x i =
    fadd (fsub (fmul c.gain (x i)) (fmul c.gain (lag1 c.y1 (combOut f c d x) i))) (lag1 c.x1 x i) := by
  conv_lhs => rw [combOut_eq, combOutput_of_allpass (c := combAt f c d x i) h0 h1]
  rfl

end

theorem effect_cbProc (s : State) : Instr.cbProc.effect s =
    ((s.setCb (combAt s.dlSample s.cb s.dl s.inputSample s.r.r2.toNat)).setDl
      (combLine s.dlSample s.cb s.dl s.inputSample s.r.r2.toNat)).writeBlock s.r.r1
      ((List.range s.r.r2.toNat).map (combOut s.dlSample s.cb s.dl s.inputSample)) := by
  simp only [Instr.effect, runBlock_input, unitState_comb]
  rfl

/-- Settles O50: the run of the delay line over what the mode feeds it, and the formula of the mode. -/
theorem comb_processing : Obligations.comb_processing := by
  intro s hf
  refine ⟨_, combOut s.dlSample s.cb s.dl s.inputSample, combDelayed s.dlSample s.cb s.dl s.inputSample,
    exec_of_no_fault hf, ?_, fun a => ?_, fun h0 => ?_, fun h1 => ?_, fun h0 h1 => ?_⟩
  · rw [effect_cbProc]
    rfl
  · rw [effect_cbProc, State.readDM_writeBlock_overlay]
    rfl
  · have hfeed : (fun i => combFeed (combAt s.dlSample s.cb s.dl s.inputSample i) (s.inputSample i)) =
        lag1 s.cb.y1 (combOut s.dlSample s.cb s.dl s.inputSample) := funext fun i => if_pos h0
    rw [effect_cbProc, ← hfeed]
    exact ⟨runBlock_combFeed _ _ _ _ (.inl h0) _, fun i _ => combOut_of_feed _ _ _ _ (.inl h0) i⟩
  · have hfeed : (fun i => combFeed (combAt s.dlSample s.cb s.dl s.inputSample i) (s.inputSample i)) = s.inputSample :=
      funext fun i => if_neg fun h0 : s.cb.mode = 0#32 => absurd (h0.symm.trans h1) (by decide)
    have hrun := runBlock_combFeed s.dlSample s.cb s.dl s.inputSample (.inr h1) s.r.r2.toNat
    rw [hfeed] at hrun
    rw [effect_cbProc]
    exact ⟨hrun, fun i _ => combOut_of_feed _ _ _ _ (.inr h1) i⟩
  · rw [effect_cbProc]
    exact ⟨combLine_of_allpass _ _ _ _ h0 h1 _, fun i _ => combOut_of_allpass _ _ _ _ h0 h1 i⟩

end Sys2Proof.Machine
end

section
/-! The convolution units CV and FC (45_convolution.md). -/

namespace Sys2Proof.Machine

/-! ### Overlap-add -/

/-- Value `n` of a full convolution with the carried tail of `t` values added (45_convolution.md R401). -/
def carriedSum (full tail : Nat → F) (t n : Nat) : F := if n < t then fadd (full n) (tail n) else full n

theorem overlapAdd_frame {full ov : List F} {g o : Nat → F} {b t : Nat} (hfull : ∀ n, n < b + t → at0 full n = g n)
    (hov : ∀ n, n < t → at0 ov n = o n) : (overlapAdd full ov b t).1 = (List.range b).map (carriedSum g o t) := by
  rw [overlapAdd_fst]
  refine List.map_congr_left fun n hn => ?_
  have hn := List.mem_range.1 hn
  unfold carriedSum
  split
  case isTrue ht => rw [hfull n (by omega), hov n ht]
  case isFalse => rw [hfull n (by omega)]

theorem overlapAdd_tail {full ov : List F} {g o : Nat → F} {b t n : Nat} (hfull : ∀ n, n < b + t → at0 full n = g n)
    (hov : ∀ n, n < t → at0 ov n = o n) (hn : n < t) : at0 (overlapAdd full ov b t).2 n = carriedSum g o t (b + n) := by
  rw [at0_overlapAdd_snd _ _ _ _ _ hn]
  unfold carriedSum
  split
  case isTrue ht => rw [hfull _ (by omega), hov _ ht]
  case isFalse => rw [hfull _ (by omega)]

/-- The carried tail as the unit's memory holds it afterwards. -/
theorem get_overlapAdd_tail (free : Nat → F) (ovm : Memory) {full ov : List F} {g o : Nat → F} {b t : Nat}
    (hfull : ∀ n, n < b + t → at0 full n = g n) (hov : ∀ n, n < t → at0 ov n = o n) (n : Nat) :
    Memory.get free (ovm.writeBlock 0 (overlapAdd full ov b t).2) n =
      if n < t then carriedSum g o t (b + n) else Memory.get free ovm n := by
  rw [Memory.get_fill, overlapAdd_snd_length]
  split
  case isTrue ht => rw [overlapAdd_tail hfull hov ht]
  case isFalse => rfl

/-! ### CV -/

/-- Settles O51: hidden memories filled from cell 0 on. -/
theorem convolution_setup : Obligations.convolution_setup := by
  refine fun s => ⟨fun hf => ⟨_, exec_of_no_fault hf, rfl, fun j hj => ?_, fun n hn => ?_⟩,
    fun hf => ⟨_, exec_of_no_fault hf, rfl, Memory.get_fill_zeros _ _ _⟩,
    fun hf => ⟨_, exec_of_no_fault hf, rfl, Memory.get_fill_zeros _ _ _⟩⟩
  · exact (Memory.get_fill_map _ _ s.inputSample _ _).trans (if_pos hj)
  · exact (Memory.get_fill_zeros _ _ _ _).trans (if_pos hn)

/-- Term `i` of value `n` of the convolution added, if it is one (45_convolution.md R403). -/
def convRound (x h : Nat → F) (m n : Nat) (acc : F) (i : Nat) : F :=
  if i ≤ n ∧ n - i < m then fadd acc (fmul (x i) (h (n - i))) else acc

theorem convAt_eq {xs hs : List F} {x h : Nat → F} {b m : Nat} (hx : ∀ i, i < b → at0 xs i = x i)
    (hh : ∀ j, j < m → at0 hs j = h j) (n : Nat) : convAt xs hs b m n = runningSum (convRound x h m n) b := by
  rw [convAt, List.foldl_filter]
  refine runningSum_congr fun acc i hi => ?_
  have hcond : ((decide (i ≤ n) && decide (n < i + m)) = true) ↔ (i ≤ n ∧ n - i < m) := by
    simp only [Bool.and_eq_true, decide_eq_true_eq]
    omega
  simp only [hcond, convRound]
  split
  case isTrue hin => rw [hx i hi, hh _ hin.2]
  case isFalse => rfl

/-- Settles O52: running sums of the products, then overlap-add. -/
theorem direct_convolution : Obligations.direct_convolution := by
  rintro s b m hf rfl rfl hm
  have hx : ∀ i, i < s.cv.frame.toNat → at0 (s.readBlock s.r.r0 s.cv.frame.toNat) i = s.inputSample i :=
    at0_readBlock s _ _
  have hh : ∀ j, j < s.cv.irlen.toNat → at0 s.cvResponse j = Memory.get (s.free .cvIr) s.cv.ir j := fun j hj => by
    rw [State.cvResponse, Memory.at0_readBlock _ _ _ _ _ hj, Nat.zero_add]
  have hov : ∀ n, n < s.cv.irlen.toNat - 1 → at0 s.cvTail n = Memory.get (s.free .cvOv) s.cv.ov n := fun n hn => by
    rw [State.cvTail, Memory.at0_readBlock _ _ _ _ _ hn, Nat.zero_add]
  have hfull : ∀ n, n < s.cv.frame.toNat + (s.cv.irlen.toNat - 1) →
      at0 (convFull (s.readBlock s.r.r0 s.cv.frame.toNat) s.cvResponse s.cv.frame.toNat s.cv.irlen.toNat) n =
        runningSum (convRound s.inputSample (Memory.get (s.free .cvIr) s.cv.ir) s.cv.irlen.toNat n) s.cv.frame.toNat :=
    fun n hn => by rw [convFull, at0_map_range _ _ _ hn, convAt_eq hx hh]
  refine ⟨_, fun n => runningSum (convRound s.inputSample (Memory.get (s.free .cvIr) s.cv.ir) s.cv.irlen.toNat n), _,
    exec_of_no_fault hf, fun n => runningSum_zero _, fun n i => runningSum_succ _ _, fun n => rfl, rfl,
    get_overlapAdd_tail _ _ hfull hov, fun a => ?_⟩
  simp only [Instr.effect, State.readDM_writeBlock_overlay, overlapAdd_frame hfull hov]
  rfl

/-! ### FC -/

/-- A command's input block filled up with zeros to `n` values. -/
theorem readBlock_append_zeros (s : State) {m n : Nat} (h : m ≤ n) : s.readBlock s.r.r0 m ++ zeros (n - m) =
    (List.range n).map fun i => if i < m then s.inputSample i else 0#64 :=
  map_range_append_zeros s.inputSample h

theorem effect_fcInit {s : State} {n : Nat} {g : Work} (hn : fcSize s.r.r2.toNat s.r.r3.toNat = n) (hm : s.r.r3.toNat ≤ n)
    (hg : g = fftFwd n ((List.range n).map fun i => if i < s.r.r3.toNat then s.inputSample i else 0#64)) :
    Instr.fcInit.effect s = s.setFc ⟨s.r.r2, s.r.r3, BitVec.ofNat 32 n, s.fc.hr.writeBlock 0 g.wr,
      s.fc.hi.writeBlock 0 g.wi, s.fc.ov.writeBlock 0 (zeros (s.r.r3.toNat - 1))⟩ := by
  subst hn hg
  simp only [Instr.effect, readBlock_append_zeros s hm]

/-- Settles O53: the least legal size, and the spectrum of the padded response. -/
theorem fast_convolution_construction : Obligations.fast_convolution_construction := by
  intro s hf _ hfits
  obtain ⟨p, hp, hsize, hle, hleast⟩ := fcSize_spec s.r.r2.toNat s.r.r3.toNat
  have hb := (size_of_no_fault hf (lo := 1) (hi := s.params.blkMax) (n := s.r.r2.toNat)
    (by simp [Instr.checks, convSizeChecks])).1
  have hn := of_decide_eq_true (checks_pass hf (decide (fcSize s.r.r2.toNat s.r.r3.toNat ≤ s.params.nmax), .size)
    (by simp [Instr.checks]))
  have htoNat := toNat_fcSize hfits hn
  rw [hsize] at htoNat
  obtain ⟨hwr, hwi⟩ := fftFwd_sized (2 ^ p)
    ((List.range (2 ^ p)).map fun i => if i < s.r.r3.toNat then s.inputSample i else 0#64)
  refine ⟨_, p, _, (exec_of_no_fault hf).trans (by rw [effect_fcInit hsize (by omega) rfl]), hp, hle, hleast, rfl, rfl, htoNat,
    fun k hk => ⟨?_, ?_⟩, fun n hn => (Memory.get_fill_zeros _ _ _ _).trans (if_pos hn)⟩
  · exact (Memory.get_fill _ _ _ _).trans (if_pos (hwr.symm ▸ hk))
  · exact (Memory.get_fill _ _ _ _).trans (if_pos (hwi.symm ▸ hk))

theorem at0_take {v : List F} {n i : Nat} (h : i < n) : at0 (v.take n) i = at0 v i := by
  simp [at0, List.getD, h]

/-- The inverse of the product of two spectra, over bins `0` to `N/2` (45_convolution.md R413). -/
def spectrumProduct (n : Nat) (x : Work) (hr hi : Nat → F) : List F :=
  fftInv n ((List.range (n / 2 + 1)).map fun k => fsub (fmul (at0 x.wr k) (hr k)) (fmul (at0 x.wi k) (hi k)))
    ((List.range (n / 2 + 1)).map fun k => fadd (fmul (at0 x.wr k) (hi k)) (fmul (at0 x.wi k) (hr k)))

theorem at0_fcFull {n len i : Nat} {xp hr hi : List F} {gr gi : Nat → F} (hgr : ∀ k, k < n / 2 + 1 → at0 hr k = gr k)
    (hgi : ∀ k, k < n / 2 + 1 → at0 hi k = gi k) (hlen : i < len) :
    at0 (fcFull n len xp hr hi) i = at0 (spectrumProduct n (fftFwd n xp) gr gi) i := by
  have hre : (List.range (n / 2 + 1)).map (specRe (fftFwd n xp) hr hi) = _ := List.map_congr_left fun k hk => by
    rw [specRe, hgr k (List.mem_range.1 hk), hgi k (List.mem_range.1 hk)]
  have him : (List.range (n / 2 + 1)).map (specIm (fftFwd n xp) hr hi) = _ := List.map_congr_left fun k hk => by
    rw [specIm, hgr k (List.mem_range.1 hk), hgi k (List.mem_range.1 hk)]
  rw [fcFull, hre, him, at0_take hlen, spectrumProduct]

/-- Settles O54: the product of the spectra, then overlap-add. -/
theorem fast_convolution : Obligations.fast_convolution := by
  rintro s b m n x hr hi hf hs rfl rfl rfl rfl rfl rfl
  have hframe := configured_of_no_fault hf (v := s.fc.frame) (by simp [Instr.checks])
  obtain ⟨-, hm, -⟩ := hs.fast.sizes hframe
  obtain ⟨-, -, -, hfit⟩ := hs.fast.transform hframe
  have hpad := readBlock_append_zeros s (show s.fc.frame.toNat ≤ s.fc.n.toNat by omega)
  have hgr : ∀ k, k < s.fc.n.toNat / 2 + 1 → at0 s.fcRe k = Memory.get (s.free .fcHr) s.fc.hr k := fun k hk => by
    rw [State.fcRe, Memory.at0_readBlock _ _ _ _ _ hk, Nat.zero_add]
  have hgi : ∀ k, k < s.fc.n.toNat / 2 + 1 → at0 s.fcIm k = Memory.get (s.free .fcHi) s.fc.hi k := fun k hk => by
    rw [State.fcIm, Memory.at0_readBlock _ _ _ _ _ hk, Nat.zero_add]
  have hov : ∀ i, i < s.fc.irlen.toNat - 1 → at0 s.fcTail i = Memory.get (s.free .fcOv) s.fc.ov i := fun i hi => by
    rw [State.fcTail, Memory.at0_readBlock _ _ _ _ _ hi, Nat.zero_add]
  have hfull := fun i (hi : i < s.fc.frame.toNat + (s.fc.irlen.toNat - 1)) => at0_fcFull (n := s.fc.n.toNat)
    (xp := s.readBlock s.r.r0 s.fc.frame.toNat ++ zeros (s.fc.n.toNat - s.fc.frame.toNat)) hgr hgi hi
  refine ⟨_, _, _, exec_of_no_fault hf, by rw [← hpad, spectrumProduct], fun i => rfl, rfl, get_overlapAdd_tail _ _ hfull hov, fun a => ?_⟩
  simp only [Instr.effect, State.readDM_writeBlock_overlay, overlapAdd_frame hfull hov]
  rfl

end Sys2Proof.Machine
end

section
/-! The kernel design units WS and CU (46_kernel_design.md). -/

namespace Sys2Proof.Machine

/-! ### A kernel written with its length -/

theorem State.writeKernel_eq (s : State) (kernel : List F) (n : Nat) : s.writeKernel kernel n =
    { s with dm := (s.writeKernel kernel n).dm, r := { s.r with r7 := BitVec.ofNat 32 n } } := rfl

theorem State.readDM_writeKernel (s : State) (kernel : List F) (n : Nat) :
    (s.writeKernel kernel n).readDM = overlay s.r.r1.toNat kernel s.readDM :=
  s.readDM_writeBlock_overlay s.r.r1 kernel

/-! ### WS -/

/-- A sequence with the recurrence of a running sum is that sum. -/
theorem eq_runningSum {f : F → Nat → F} {sum : Nat → F} (h0 : sum 0 = 0#64) (hsucc : ∀ i, sum (i + 1) = f (sum i) i)
    (m : Nat) : sum m = runningSum f m := by
  induction m with
  | zero => exact h0
  | succ m ih => rw [hsucc, ih, runningSum_succ]

/-- The low-pass kernel: the windowed taps divided by their sum (46_kernel_design.md R443). -/
theorem wsLowPass_eq {p : Params} {fs fc : F} {l : Nat} {tap sum : Nat → F}
    (htap : ∀ i, tap i = fmul (sincTap p (fdiv (fmul cTWO_PI fc) fs) ((l - 1) / 2) i) (wBlack p l i))
    (h0 : sum 0 = 0#64) (hsucc : ∀ i, sum (i + 1) = fadd (sum i) (tap i)) :
    wsLowPass p fs fc l = (List.range l).map fun i => fdiv (tap i) (sum l) := by
  have hsum : ((List.range l).map tap).foldl fadd fzero = sum l := by
    rw [List.foldl_map, eq_runningSum (f := fun acc i => fadd acc (tap i)) h0 hsucc]
    rfl
  simp only [wsLowPass, ← htap, hsum, List.map_map, Function.comp_def]

/-- The spectral inversion of a kernel (46_kernel_design.md R444). -/
theorem wsInvert_map_range (g : Nat → F) (l : Nat) : wsInvert ((List.range l).map g) =
    (List.range l).map fun i => if i = (l - 1) / 2 then fadd (fneg (g i)) 0x3FF0000000000000#64 else fneg (g i) := by
  refine List.ext_getElem (by simp) fun i hi _ => ?_
  have hil : i < l := by simpa using hi
  simp only [wsInvert, List.length_map, List.length_range, List.map_map, List.getElem_set, List.getElem_map,
    List.getElem_range, eq_comm (b := i)]
  by_cases h : i = (l - 1) / 2
  · rw [if_pos h, if_pos h, ← h, at0_map_range _ _ _ hil]
    rfl
  · rw [if_neg h, if_neg h]
    rfl

theorem zipWith_fadd_map_range (g h : Nat → F) (l : Nat) :
    List.zipWith fadd ((List.range l).map g) ((List.range l).map h) = (List.range l).map fun i => fadd (g i) (h i) :=
  List.ext_getElem (by simp) fun i _ _ => by simp

/-- Settles O55: each kernel from the low pass by inversion and sum. -/
theorem windowed_sinc_kernels : Obligations.windowed_sinc_kernels := by
  intro s l tap lp hp br sum hl htap hsum0 hsum hlp hhp hbr c hc hf
  have hlen : wsLength s.f.f0 s.f.f2 = l := hl.symm
  have hlow : ∀ fc, wsLowPass s.params s.f.f0 fc l = (List.range l).map (lp fc) := fun fc =>
    (wsLowPass_eq (htap fc) (hsum0 fc) (hsum fc)).trans (List.map_congr_left fun i _ => (hlp fc i).symm)
  have hhigh : ∀ fc, wsHighPass s.params s.f.f0 fc l = (List.range l).map (hp fc) := fun fc => by
    rw [wsHighPass, hlow, wsInvert_map_range]
    exact List.map_congr_left fun i _ => (hhp fc i).symm
  have hreject : wsBandReject s.params s.f.f0 s.f.f1 s.f.f3 l = (List.range l).map (br s.f.f1) := by
    rw [wsBandReject, hlow, hhigh, zipWith_fadd_map_range]
    exact List.map_congr_left fun i _ => (hbr _ i).symm
  simp only [List.mem_cons, List.not_mem_nil, or_false] at hc
  obtain rfl | rfl | rfl | rfl := hc <;>
    refine ⟨_, exec_of_no_fault hf, ?_, fun a => ?_⟩ <;>
    simp only [Instr.effect, hlen, hlow, hhigh, hreject, wsBandPass, wsInvert_map_range, State.readDM_writeKernel]
  all_goals exact State.writeKernel_eq _ _ _

/-! ### CU -/

theorem cuDesignKernel_lin (s : State) (r : Nat) : cuDesignKernel s.params false (s.readBlock s.r.r0 r) r =
    (List.range (2 * (r - 1))).map fun i =>
      fmul (at0 (fftInv (2 * (r - 1)) ((List.range r).map s.inputSample) (List.replicate r 0#64))
        ((i + 2 * (r - 1) / 2) % (2 * (r - 1)))) (wBlack s.params (2 * (r - 1)) i) := rfl

theorem cuDesignKernel_db (s : State) (r : Nat) : cuDesignKernel s.params true (s.readBlock s.r.r0 r) r =
    (List.range (2 * (r - 1))).map fun i =>
      fmul (at0 (fftInv (2 * (r - 1)) ((List.range r).map fun b => npow10 s.params (fdiv (s.inputSample b) (fofNat 20)))
        (List.replicate r 0#64)) ((i + 2 * (r - 1) / 2) % (2 * (r - 1)))) (wBlack s.params (2 * (r - 1)) i) := by
  have hdb : (s.readBlock s.r.r0 r).map (db2lin s.params) =
      (List.range r).map fun b => npow10 s.params (fdiv (s.inputSample b) (fofNat 20)) := by
    rw [State.readBlock_input, List.map_map]
    rfl
  simp only [cuDesignKernel, if_true, hdb, zeros]

/-- Settles O56: the inverse transform shifted and windowed. -/
theorem custom_response_kernels : Obligations.custom_response_kernels := by
  rintro s r n rfl rfl c hc hf
  simp only [List.mem_cons, List.not_mem_nil, or_false] at hc
  obtain rfl | rfl := hc
  · refine ⟨_, _, exec_of_no_fault hf, rfl, State.writeKernel_eq _ _ _, fun a => ?_⟩
    rw [Instr.effect, State.readDM_writeKernel, cuDesignKernel_lin]
  · refine ⟨_, _, exec_of_no_fault hf, rfl, State.writeKernel_eq _ _ _, fun a => ?_⟩
    rw [Instr.effect, State.readDM_writeKernel, cuDesignKernel_db]

end Sys2Proof.Machine
end

section
/-! The parametric equaliser PEQ (47_parametric_eq.md): its bands are biquad sections, and its processing is a chain of theirs. -/

namespace Sys2Proof.Machine

/-! ### Bands -/

theorem State.section_mapFirst (s : State) (g : Biquad → Biquad) (n j : Nat) :
    (s.setBq (mapFirst g n s.bq)).section j = if j < n then (s.bq[j]?.map g).getD Biquad.flat else s.section j := by
  simp only [State.section, State.setBq_bq, List.getD, mapFirst_getElem?]
  split <;> rfl

/-- Settles O57: the first sections flattened, or their state registers zeroed. -/
theorem equaliser_construction_and_reset : Obligations.equaliser_construction_and_reset := by
  refine fun s _ => ⟨fun hf => ⟨_, exec_of_no_fault hf, rfl, bandCount_toNat _, fun j => ?_⟩,
    fun hf => ⟨_, exec_of_no_fault hf, rfl, fun j => ?_⟩⟩
  · refine (s.section_mapFirst _ _ j).trans ?_
    rw [bandCount_toNat]
    split
    · cases s.bq[j]? <;> rfl
    · rfl
  · refine (s.section_mapFirst _ _ j).trans ?_
    simp only [State.section, List.getD]
    split
    · cases s.bq[j]? <;> rfl
    · rfl

/-- The number of bands is a number of sections that exist. -/
theorem State.Inv.bands {s : State} (hs : s.Inv) {i : Instr} (hf : i.fault? s = none) (h : configured s.peq.nb ∈ i.checks s) :
    2 ≤ s.peq.nb.toNat ∧ s.peq.nb.toNat ≤ s.params.nbq := hs.equaliser (configured_of_no_fault hf h)

/-- Settles O58: the band's design is that of its section, at the rate `PEQ_FS`. -/
theorem equaliser_band_design : Obligations.equaliser_band_design := by
  intro s b hf hs
  obtain ⟨-, hnb⟩ := hs.bands hf (by simp [Instr.checks])
  have hb : b < s.peq.nb.toNat :=
    of_decide_eq_true (checks_pass hf (decide (b < s.peq.nb.toNat), .index) (by simp [Instr.checks]))
  have hsec : b < s.params.nbq := by omega
  refine ⟨_, Instr.effect _ _, exec_of_no_fault hf, exec_of_section (k := b) ?_ hsec, ?_, ?_⟩
  all_goals
    simp only [Instr.effect, bandDesign]
    split_ifs <;> rfl

/-! ### The cascade, section by section -/

theorem cascade_set (k : Nat) (bs : List Biquad) (b : Biquad) (v : F) :
    cascade k (bs.set k b) v = ((cascade k bs v).1.set k b, (cascade k bs v).2) := by
  induction k generalizing bs v with
  | zero => rfl
  | succ k ih => cases bs <;> simp [cascade, ih]

/-- One more section: it works on what the sections before it put out. -/
theorem cascade_succ {k : Nat} {bs : List Biquad} (hk : k < bs.length) (v : F) : cascade (k + 1) bs v =
    ((cascade k bs v).1.set k ((bs.getD k Biquad.flat).sample (cascade k bs v).2).1,
      ((bs.getD k Biquad.flat).sample (cascade k bs v).2).2) := by
  induction k generalizing bs v with
  | zero =>
    cases bs with
    | nil => simp at hk
    | cons b bs => rfl
  | succ k ih =>
    cases bs with
    | nil => simp at hk
    | cons b bs =>
      rw [cascade, ih (by simpa using hk)]
      rfl

theorem runBlock_cascade_zero (bs : List Biquad) (xs : List F) : runBlock (cascade 0) bs xs = (bs, xs) := by
  induction xs generalizing bs with
  | nil => rfl
  | cons x xs ih =>
    simp only [runBlock]
    rw [show cascade 0 bs x = (bs, x) from rfl, ih]

theorem runBlock_cascade_set (k : Nat) (bs : List Biquad) (b : Biquad) (xs : List F) :
    runBlock (cascade k) (bs.set k b) xs =
      ((runBlock (cascade k) bs xs).1.set k b, (runBlock (cascade k) bs xs).2) := by
  induction xs generalizing bs with
  | nil => rfl
  | cons x xs ih => simp [runBlock, cascade_set, ih]

/-- A block through one more section: that section's own run on the block the sections before it put out. -/
theorem runBlock_cascade_succ {k : Nat} {bs : List Biquad} (hk : k < bs.length) (xs : List F) :
    runBlock (cascade (k + 1)) bs xs =
      ((runBlock (cascade k) bs xs).1.set k
          (runBlock Biquad.sample (bs.getD k Biquad.flat) (runBlock (cascade k) bs xs).2).1,
        (runBlock Biquad.sample (bs.getD k Biquad.flat) (runBlock (cascade k) bs xs).2).2) := by
  induction xs generalizing bs with
  | nil => simp [runBlock, hk]
  | cons x xs ih =>
    have hget : ∀ b, ((cascade k bs x).1.set k b).getD k Biquad.flat = b := fun b => by simp [hk]
    simp only [runBlock, cascade_succ hk]
    rw [ih (by simpa using hk), runBlock_cascade_set]
    simp only [hget, List.set_set]

/-! ### The chain of `BQ.PROC` commands -/

/-- The input of command `k` of the chain: the block in `r0` for the first, the output block for the others. -/
def chainInput (s u : State) (k : Nat) : State := { u with r := { s.r with r0 := if k = 0 then s.r.r0 else s.r.r1 } }

/-- The state after the first `k` commands of the chain. -/
def chainState (s : State) : Nat → State
  | 0 => s
  | k + 1 => (Instr.bqProc k).effect (chainInput s (chainState s k) k)

/-- The run of the first `k` sections over the input block. -/
def chainRun (s : State) (k : Nat) : List Biquad × List F := runBlock (cascade k) s.bq (s.readBlock s.r.r0 s.r.r2.toNat)

/-- `u` is the state with `k` sections run: the sections hold what the cascade leaves, the data what it put out. -/
structure Chained (s u : State) (k : Nat) : Prop where
  frame : ∃ r dm, u = { s with r := r, bq := (chainRun s k).1, dm := dm }
  input : (chainInput s u k).readBlock (chainInput s u k).r.r0 s.r.r2.toNat = (chainRun s k).2
  data : u.readDM = if k = 0 then s.readDM else overlay s.r.r1.toNat (chainRun s k).2 s.readDM

theorem chainRun_length (s : State) (k : Nat) : (chainRun s k).2.length = s.r.r2.toNat := by simp [chainRun]

theorem chained_zero (s : State) : Chained s (chainState s 0) 0 where
  frame := ⟨s.r, s.dm, by rw [chainRun, runBlock_cascade_zero]; rfl⟩
  input := by rw [chainRun, runBlock_cascade_zero]; rfl
  data := rfl

/-- A block written over a block of the same place and length. -/
theorem overlay_overlay_same {vs ws : List F} (h : vs.length = ws.length) (a : Nat) (old : Nat → F) :
    overlay a vs (overlay a ws old) = overlay a vs old := by
  funext c
  simp only [overlay, h]
  split <;> rfl

theorem readBlock_of_overlay {s : State} {a : U32} {vs : List F} {old : Nat → F} (h : s.readDM = overlay a.toNat vs old) :
    s.readBlock a vs.length = vs := by
  refine List.ext_getElem (by simp) fun i hi _ => ?_
  have hiv : i < vs.length := by simpa using hi
  simp only [State.readBlock_eq_map, List.getElem_map, List.getElem_range, h, overlay_inside hiv, at0, List.getD]
  simp [hiv]

/-- A section not yet run holds its registers. -/
theorem chainRun_section (s : State) (k : Nat) : (chainRun s k).1.getD k Biquad.flat = s.bq.getD k Biquad.flat := by
  have hdrop : (chainRun s k).1.drop k = s.bq.drop k := runBlock_inv (P := fun bs => bs.drop k = s.bq.drop k)
    (fun bs x h => (cascade_drop k bs x).trans h) s.bq _ rfl
  have hhead := congrArg (·[0]?) hdrop
  simp only [List.getElem?_drop, Nat.add_zero] at hhead
  rw [List.getD, List.getD, hhead]

theorem chained_succ {s u : State} {k : Nat} (hk : k < s.bq.length) (h : Chained s u k) :
    Chained s ((Instr.bqProc k).effect (chainInput s u k)) (k + 1) := by
  obtain ⟨⟨r, dm, rfl⟩, hinput, hdata⟩ := h
  have hrun : chainRun s (k + 1) = ((chainRun s k).1.set k
      (runBlock Biquad.sample ((chainRun s k).1.getD k Biquad.flat) (chainRun s k).2).1,
      (runBlock Biquad.sample ((chainRun s k).1.getD k Biquad.flat) (chainRun s k).2).2) := by
    rw [chainRun_section]
    exact runBlock_cascade_succ hk _
  set v := chainInput s { s with r := r, bq := (chainRun s k).1, dm := dm } k
  have heff : (Instr.bqProc k).effect v = (v.setBq (chainRun s (k + 1)).1).writeBlock s.r.r1 (chainRun s (k + 1)).2 := by
    rw [hrun, ← hinput]
    rfl
  have hread : ((Instr.bqProc k).effect v).readDM = overlay s.r.r1.toNat (chainRun s (k + 1)).2 s.readDM := by
    rw [heff, State.readDM_writeBlock_overlay]
    refine (congrArg (overlay _ _) hdata).trans ?_
    split
    · rfl
    · exact overlay_overlay_same (by rw [chainRun_length, chainRun_length]) _ _
  refine ⟨⟨_, _, heff⟩, ?_, hread⟩
  rw [← chainRun_length s (k + 1)]
  exact readBlock_of_overlay hread

theorem chained_chainState {s : State} {k : Nat} (hk : k ≤ s.bq.length) : Chained s (chainState s k) k := by
  induction k with
  | zero => exact chained_zero s
  | succ k ih => exact chained_succ (by omega) (ih (by omega))

/-- A block command on a section of which every check passes. -/
theorem exec_bqProc {s : State} {k : Nat} (hk : k < s.params.nbq) (hlen : s.r.r2.toNat ≤ s.params.blkMax)
    (hin : s.inRange s.r.r0 s.r.r2.toNat) (hout : s.inRange s.r.r1 s.r.r2.toNat) :
    exec (.bqProc k) s = .next ((Instr.bqProc k).effect s) := by
  refine exec_of_no_fault ?_
  rw [← firstFault_checks, firstFault_eq_none]
  simp [Instr.checks, State.sectionCheck, State.lengthCheck, hk, hlen, hin, hout]

theorem length_of_no_fault {i : Instr} {s : State} (hf : i.fault? s = none) (h : s.lengthCheck ∈ i.checks s) :
    s.r.r2.toNat ≤ s.params.blkMax := of_decide_eq_true (checks_pass hf _ h)

/-- Settles O59: the chain keeps to the cascade after each of its commands. -/
theorem equaliser_is_a_chain_of_biquads : Obligations.equaliser_is_a_chain_of_biquads := by
  intro s hf hs
  obtain ⟨htwo, hnb⟩ := hs.bands hf (by simp [Instr.checks])
  have hlen := length_of_no_fault hf (by simp [Instr.checks])
  have hin := inRange_of_no_fault hf (a := s.r.r0) (n := s.r.r2.toNat) (by simp [Instr.checks])
  have hout := inRange_of_no_fault hf (a := s.r.r1) (n := s.r.r2.toNat) (by simp [Instr.checks])
  have hchain : ∀ k, k ≤ s.peq.nb.toNat → Chained s (chainState s k) k := fun k hk =>
    chained_chainState (by rw [hs.sections]; omega)
  refine ⟨_, chainState s, exec_of_no_fault hf, rfl, fun k hk => ?_, ?_, ?_, fun a => ?_⟩
  · obtain ⟨⟨r, dm, hu⟩, -, -⟩ := hchain k (by omega)
    obtain ⟨⟨r', dm', hu'⟩, -, -⟩ := hchain (k + 1) hk
    have hparams : (chainState s k).params = s.params := by rw [hu]
    refine ⟨exec_bqProc (s := chainInput s (chainState s k) k) ?_ ?_ ?_ ?_, by rw [hu']⟩
    · exact hparams ▸ (by omega : k < s.params.nbq)
    · exact hparams ▸ hlen
    · by_cases h0 : k = 0
      · subst h0
        exact hin
      · simpa [State.inRange, chainInput, hparams, h0] using hout
    · simpa [State.inRange, chainInput, hparams] using hout
  · obtain ⟨⟨r, dm, hu⟩, -, -⟩ := hchain s.peq.nb.toNat le_rfl
    rw [hu]
    rfl
  · exact runBlock_inv (P := fun bs => bs.drop s.peq.nb.toNat = s.bq.drop s.peq.nb.toNat)
      (fun bs x h => (cascade_drop _ bs x).trans h) s.bq _ rfl
  · rw [(hchain s.peq.nb.toNat le_rfl).data, if_neg (by omega)]
    exact congrFun (State.readDM_writeBlock_overlay _ _ _) a

end Sys2Proof.Machine
end

section
/-! The delay line DL (42_delay_line.md): its construction, the setting of the delay, and what a block leaves in its ring. -/

namespace Sys2Proof.Machine

/-! ### Construction and setting -/

/-- The delay line with a buffer of the constructed length, all zero, before its delay is set (42_delay_line.md R261). -/
def DelayLine.resized (d : DelayLine) (fs maxms : F) : DelayLine :=
  DelayLine.cleared
    { d with fs := fs, maxms := maxms, len := BitVec.ofNat 32 (nextpow2F (delaySamples maxms fs)), wr := 0#32 }

theorem DelayLine.resized_wr (d : DelayLine) (fs maxms : F) : (d.resized fs maxms).wr = 0#32 := rfl

theorem DelayLine.init_eq_setDelay (d : DelayLine) (fs maxms ms : F) :
    d.init fs maxms ms = (d.resized fs maxms).setDelay ms := rfl

theorem setDelay_eq (d : DelayLine) (ms : F) : d.setDelay ms =
    { d with
      ms := clampF ms fzero d.maxms
      rd := (d.setDelay ms).rd
      frac := fsub (delaySamples (clampF ms fzero d.maxms) d.fs)
        (fofInt (ffloor (delaySamples (clampF ms fzero d.maxms) d.fs))) } := rfl

/-- Settles O36: the length by `nextpow2F_spec`, the cursor by `setDelay_rd`. -/
theorem delay_line_construction : Obligations.delay_line_construction := by
  intro s hf hwf hfits
  obtain ⟨-, -, -, -, -, hfin, hmax⟩ := (dlInitChecks_pass_iff _ _ _ _).1 (checks_pass hf)
  obtain ⟨p, hp, hle, hleast⟩ := nextpow2F_spec (delaySamples s.f.f1 s.f.f0)
  have hlt : 2 ^ p < 2 ^ 32 := hp ▸ (nextpow2F_le_dlMax hwf hfits hfin hmax).trans_lt ((fits_iff _).1 hfits).2
  have hp32 : p < 32 := (Nat.pow_lt_pow_iff_right (by decide)).1 hlt
  have hlen : (s.dl.resized s.f.f0 s.f.f1).len.toNat = 2 ^ p := by
    refine (BitVec.toNat_ofNat _ _).trans ?_
    rw [hp, Nat.mod_eq_of_lt hlt]
  have hne : (s.dl.resized s.f.f0 s.f.f1).len ≠ 0#32 := (u32_ne_zero_iff _).2 (hlen.symm ▸ Nat.one_le_two_pow)
  have hrd := DelayLine.setDelay_rd (s.dl.resized s.f.f0 s.f.f1) s.f.f2 hne
  refine ⟨_, p, _, _, exec_of_no_fault hf, ?_, fun k hk => ?_, rfl, rfl,
    congrArg s.setDl (setDelay_eq (s.dl.resized s.f.f0 s.f.f1) s.f.f2), hlen, ?_, fun i => ?_⟩
  · exact (fle_fofNat_iff hfin (by omega)).2 hle
  · by_cases hk32 : k < 32
    · have h53 : 2 ^ k ≤ 2 ^ 53 := Nat.pow_le_pow_right (by decide) (by omega)
      exact hleast k ((fle_fofNat_iff hfin h53).1 hk)
    · omega
  · rw [hlen] at hrd
    rw [DelayLine.resized_wr, show ((0#32 : U32).toNat : Int) = 0 from rfl, Int.zero_add] at hrd
    exact hrd
  · refine (Memory.get_fill_zeros _ _ _ i).trans ?_
    rw [← hlen]
    rfl

/-- Settles O37: the clamped delay, its fraction and the cursor; the buffer zeroed. -/
theorem delay_setting_and_clearing : Obligations.delay_setting_and_clearing := by
  refine fun s => ⟨fun hf => ?_, fun hf => ⟨_, exec_of_no_fault hf, rfl, Memory.get_fill_zeros _ _ _⟩⟩
  have hlen := configured_of_no_fault hf (v := s.dl.len) (by simp [Instr.checks])
  exact ⟨_, _, _, exec_of_no_fault hf, rfl, rfl, congrArg s.setDl (setDelay_eq _ _), DelayLine.setDelay_rd _ _ hlen⟩

/-! ### The ring -/

/-- The slots after `n + 1` writes: the slot written last, and the others as after `n` writes. -/
theorem ringAfter_succ {m wr p : Nat} (x old : Nat → F) (n : Nat) (hp : p < m) :
    ringAfter m wr x old (n + 1) p = if p = (wr + n) % m then x n else ringAfter m wr x old n p := by
  obtain ⟨q, r, hr, hqr⟩ : ∃ q r, r < m ∧ wr + n = r + m * q :=
    ⟨(wr + n) / m, (wr + n) % m, Nat.mod_lt _ (by omega), (Nat.mod_add_div _ _).symm⟩
  have hmod : (wr + n) % m = r := by rw [hqr, Nat.add_mul_mod_self_left, Nat.mod_eq_of_lt hr]
  have hnow : (wr + (n + 1) + m - 1 - p) % m = (r + m - p) % m := by
    rw [show wr + (n + 1) + m - 1 - p = r + m - p + m * q by omega, Nat.add_mul_mod_self_left]
  have hbefore : (wr + n + m - 1 - p) % m = (r + m - 1 - p) % m := by
    rw [show wr + n + m - 1 - p = r + m - 1 - p + m * q by omega, Nat.add_mul_mod_self_left]
  simp only [ringAfter, hnow, hbefore, hmod]
  rcases Nat.lt_trichotomy p r with hlt | rfl | hgt
  · rw [show r + m - p = r - p + m by omega, show r + m - 1 - p = r - p - 1 + m by omega, Nat.add_mod_right,
      Nat.add_mod_right, Nat.mod_eq_of_lt (by omega), Nat.mod_eq_of_lt (by omega), if_neg (show p ≠ r by omega)]
    simp only [show r - p < n + 1 ↔ r - p - 1 < n by omega, show n + 1 - 1 - (r - p) = n - 1 - (r - p - 1) by omega]
  · simp [show p + m - p = m by omega]
  · rw [Nat.mod_eq_of_lt (by omega), Nat.mod_eq_of_lt (by omega), if_neg (show p ≠ r by omega)]
    simp only [show r + m - p < n + 1 ↔ r + m - 1 - p < n by omega,
      show n + 1 - 1 - (r + m - p) = n - 1 - (r + m - 1 - p) by omega]

theorem ringAfter_zero (m wr : Nat) (x old : Nat → F) (p : Nat) : ringAfter m wr x old 0 p = old p := if_neg (Nat.not_lt_zero _)

/-- The buffer before sample `i` of a block. -/
def DelayLine.bufferAt (d : DelayLine) (x : Nat → F) : Nat → Memory
  | 0 => d.buf
  | i + 1 => (d.bufferAt x i).writeBlock ((d.wr.toNat + i) % d.len.toNat) [x i]

/-- The buffer as a ring of `len` slots; slots beyond it keep what they held. -/
theorem DelayLine.get_bufferAt {d : DelayLine} (hlen : 0 < d.len.toNat) (free x : Nat → F) (n p : Nat) :
    Memory.get free (d.bufferAt x n) p = if p < d.len.toNat then
      ringAfter d.len.toNat d.wr.toNat x (Memory.get free d.buf) n p else Memory.get free d.buf p := by
  induction n with
  | zero => rw [ringAfter_zero, ite_self]; rfl
  | succ n ih =>
    have hcell := Nat.mod_lt (d.wr.toNat + n) hlen
    rw [DelayLine.bufferAt, Memory.get_writeBlock, ih]
    by_cases hp : p < d.len.toNat
    · rw [if_pos hp, if_pos hp, ringAfter_succ _ _ _ hp]
      by_cases hnow : p = (d.wr.toNat + n) % d.len.toNat
      · simp [hnow]
      · rw [if_neg hnow, if_neg (by simp only [List.length_singleton]; omega)]
    · rw [if_neg hp, if_neg hp, if_neg (by simp only [List.length_singleton]; omega)]

theorem toNat_ofNat_mod_len (d : DelayLine) (hlen : 0 < d.len.toNat) (n : Nat) :
    (BitVec.ofNat 32 (n % d.len.toNat)).toNat = n % d.len.toNat := by
  have h1 := Nat.mod_lt n hlen
  have h2 := d.len.isLt
  rw [BitVec.toNat_ofNat, Nat.mod_eq_of_lt (by omega)]

/-- The delay line before sample `i` of a block. -/
def DelayLine.lineAt (d : DelayLine) (x : Nat → F) (i : Nat) : DelayLine :=
  { d with
    wr := BitVec.ofNat 32 ((d.wr.toNat + i) % d.len.toNat)
    rd := BitVec.ofNat 32 ((d.rd.toNat + i) % d.len.toNat)
    buf := d.bufferAt x i }

/-- How far the interpolation neighbour lies ahead in a ring of `m` slots (42_delay_line.md R265, R266). -/
def neighbourStep (nb : DlNeigh) (m : Nat) : Nat :=
  match nb with
  | .next => 1
  | .prev => m - 1

theorem neighbour_mod (nb : DlNeigh) {m : Nat} (hm : 0 < m) (n : Nat) :
    neighbour nb m (n % m) = (n + neighbourStep nb m) % m := by
  cases nb
  · rw [neighbour, neighbourStep, Nat.add_right_comm, Nat.add_mod_right, Nat.mod_add_mod]
  · rw [neighbour, neighbourStep, Nat.add_sub_assoc hm, Nat.mod_add_mod]

/-- What the delay line puts out for sample `i` of a block (42_delay_line.md R265). -/
def DelayLine.outputAt (d : DelayLine) (nb : DlNeigh) (slot : Nat → Nat → F) (i : Nat) : F :=
  fadd (slot i ((d.rd.toNat + i) % d.len.toNat))
    (fmul d.frac
      (fsub (slot i ((d.rd.toNat + i + neighbourStep nb d.len.toNat) % d.len.toNat))
        (slot i ((d.rd.toNat + i) % d.len.toNat))))

/-- Only the slots of the ring count. -/
theorem DelayLine.outputAt_congr (d : DelayLine) (nb : DlNeigh) {slot slot' : Nat → Nat → F} {i : Nat}
    (h : ∀ j, slot i (j % d.len.toNat) = slot' i (j % d.len.toNat)) : d.outputAt nb slot i = d.outputAt nb slot' i := by
  rw [DelayLine.outputAt, DelayLine.outputAt, h, h]

/-- One sample: from the state before it to the state after it. -/
theorem DelayLine.sample_lineAt {d : DelayLine} (hlen : 0 < d.len.toNat) (nb : DlNeigh) (free x : Nat → F) (i : Nat) :
    (d.lineAt x i).sample nb free (x i) =
      (d.lineAt x (i + 1), d.outputAt nb (fun i => Memory.get free (d.bufferAt x (i + 1))) i) := by
  simp only [DelayLine.sample, DelayLine.lineAt, toNat_ofNat_mod_len d hlen, Nat.mod_add_mod, neighbour_mod nb hlen]
  rfl

theorem DelayLine.runBlock_sample {d : DelayLine} (hlen : 0 < d.len.toNat) (hwr : d.wr.toNat < d.len.toNat)
    (hrd : d.rd.toNat < d.len.toNat) (nb : DlNeigh) (free x : Nat → F) (n : Nat) :
    runBlock (DelayLine.sample nb free) d ((List.range n).map x) =
      (d.lineAt x n, (List.range n).map (d.outputAt nb fun i => Memory.get free (d.bufferAt x (i + 1)))) := by
  have h0 : d.lineAt x 0 = d := by
    simp [DelayLine.lineAt, DelayLine.bufferAt, Nat.mod_eq_of_lt hwr, Nat.mod_eq_of_lt hrd]
  have hrun := runBlock_eq x (d.lineAt x) _ (d.sample_lineAt hlen nb free x) n
  rwa [h0] at hrun

theorem effect_dlProc {s : State} (hs : s.Inv) (hlen : s.dl.len ≠ 0#32) : Instr.dlProc.effect s =
    (s.setDl (s.dl.lineAt s.inputSample s.r.r2.toNat)).writeBlock s.r.r1 ((List.range s.r.r2.toNat).map
      (s.dl.outputAt s.params.dlNeigh fun i => Memory.get (s.free .dlBuf) (s.dl.bufferAt s.inputSample (i + 1)))) := by
  obtain ⟨hwr, hrd⟩ := hs.delayLine.cursors hlen
  have hrun := s.dl.runBlock_sample (pos_of_ne_zero hlen) hwr hrd s.params.dlNeigh (s.free .dlBuf) s.inputSample s.r.r2.toNat
  simp only [Instr.effect, State.readBlock_input, State.dlSample, hrun]

/-- Settles O38: the ring after each input, and what the two slots at the read position give. -/
theorem delay_line_processing : Obligations.delay_line_processing := by
  intro s hf hs
  have hlen := configured_of_no_fault hf (v := s.dl.len) (by simp [Instr.checks])
  have hpos := pos_of_ne_zero hlen
  have hout : ∀ i, s.dl.outputAt s.params.dlNeigh
      (fun i => Memory.get (s.free .dlBuf) (s.dl.bufferAt s.inputSample (i + 1))) i = s.dl.outputAt s.params.dlNeigh
      (fun i => ringAfter s.dl.len.toNat s.dl.wr.toNat s.inputSample (Memory.get (s.free .dlBuf) s.dl.buf) (i + 1)) i :=
    fun i => s.dl.outputAt_congr _ fun j => by rw [DelayLine.get_bufferAt hpos, if_pos (Nat.mod_lt _ hpos)]
  refine ⟨_, (exec_of_no_fault hf).trans (by rw [effect_dlProc hs hlen]), rfl, s.dl.get_bufferAt hpos _ _ _, _,
    fun i p => rfl, fun a => ?_⟩
  rw [State.readDM_writeBlock_overlay, List.map_congr_left fun i _ => hout i]
  rfl

end Sys2Proof.Machine
end

section
/-! A block command split in two (43_iir_filters.md R300, 42_delay_line.md R267): what the commands that feed a block through a
unit share, and that two such commands in a row give what one gives. -/

namespace Sys2Proof.Machine

/-! ### Overlaid blocks -/

theorem overlay_nil (a : Nat) (old : Nat → F) : overlay a [] old = old := by
  funext c
  rw [overlay, if_neg (by simp only [List.length_nil]; omega)]

theorem overlay_outside {a c : Nat} {vs : List F} (h : c < a ∨ a + vs.length ≤ c) (old : Nat → F) :
    overlay a vs old c = old c := if_neg (by omega)

/-- A block and the block that follows it are one block. -/
theorem overlay_append (a : Nat) (vs ws : List F) (old : Nat → F) :
    overlay a (vs ++ ws) old = overlay (a + vs.length) ws (overlay a vs old) := by
  funext c
  simp only [overlay, List.length_append, List.getD]
  by_cases h1 : a + vs.length ≤ c ∧ c < a + vs.length + ws.length
  · rw [if_pos h1, if_pos (by omega), List.getElem?_append_right (by omega), Nat.sub_sub]
  · rw [if_neg h1]
    by_cases h2 : a ≤ c ∧ c < a + vs.length
    · rw [if_pos h2, if_pos (by omega), List.getElem?_append_left (by omega)]
    · rw [if_neg h2, if_neg (by omega)]

/-- Blocks that do not meet can be written in either order. -/
theorem overlay_comm {a b : Nat} {vs ws : List F} (h : a + vs.length ≤ b ∨ b + ws.length ≤ a) (old : Nat → F) :
    overlay a vs (overlay b ws old) = overlay b ws (overlay a vs old) := by
  funext c
  simp only [overlay]
  split_ifs <;> first | rfl | omega

/-- An address register moved on, where no cell is written beyond the last address. -/
theorem overlay_shift {a n : U32} {vs : List F} (h : vs = [] ∨ a.toNat + n.toNat < 2 ^ 32) (old : Nat → F) :
    overlay (a + n).toNat vs old = overlay (a.toNat + n.toNat) vs old := by
  obtain rfl | h := h
  · rw [overlay_nil, overlay_nil]
  · rw [BitVec.toNat_add, Nat.mod_eq_of_lt h]

/-! ### Output blocks -/

/-- Each output block, its address and what it takes of an output, written in turn. -/
def writeOuts {α : Type} (outs : List (U32 × (α → F))) (ys : List α) (m : Memory) : Memory :=
  outs.foldl (fun m o => m.writeBlock o.1.toNat (ys.map o.2)) m

/-- What a memory reads after its output blocks have been written. -/
def overlayOuts {α : Type} (outs : List (U32 × (α → F))) (ys : List α) (old : Nat → F) : Nat → F :=
  outs.foldl (fun old o => overlay o.1.toNat (ys.map o.2) old) old

/-- The output blocks with their addresses moved on. -/
def shiftOuts {α : Type} (n : U32) (outs : List (U32 × (α → F))) : List (U32 × (α → F)) :=
  outs.map fun o => (o.1 + n, o.2)

section
variable {α : Type}

theorem get_writeOuts (free : Nat → F) (outs : List (U32 × (α → F))) (ys : List α) (m : Memory) :
    Memory.get free (writeOuts outs ys m) = overlayOuts outs ys (Memory.get free m) := by
  induction outs generalizing m with
  | nil => rfl
  | cons o outs ih =>
    have hfirst : Memory.get free (m.writeBlock o.1.toNat (ys.map o.2)) = overlay o.1.toNat (ys.map o.2) (Memory.get free m) :=
      funext (Memory.get_writeBlock free m o.1.toNat (ys.map o.2))
    rw [writeOuts, overlayOuts, List.foldl_cons, List.foldl_cons, ← hfirst]
    exact ih _

theorem overlayOuts_outside {outs : List (U32 × (α → F))} {ys : List α} {c : Nat}
    (h : ∀ o ∈ outs, c < o.1.toNat ∨ o.1.toNat + ys.length ≤ c) (old : Nat → F) : overlayOuts outs ys old c = old c := by
  induction outs generalizing old with
  | nil => rfl
  | cons o outs ih =>
    obtain ⟨ho, hrest⟩ := List.forall_mem_cons.1 h
    exact (ih hrest _).trans (overlay_outside (by simpa using ho) old)

theorem overlayOuts_overlay_comm {outs : List (U32 × (α → F))} {ys : List α} {a : Nat} {vs : List F}
    (h : ∀ o ∈ outs, o.1.toNat + ys.length ≤ a ∨ a + vs.length ≤ o.1.toNat) (old : Nat → F) :
    overlayOuts outs ys (overlay a vs old) = overlay a vs (overlayOuts outs ys old) := by
  induction outs generalizing old with
  | nil => rfl
  | cons o outs ih =>
    obtain ⟨ho, hrest⟩ := List.forall_mem_cons.1 h
    rw [overlayOuts, List.foldl_cons, overlay_comm (by simpa using ho)]
    exact ih hrest _

/-- Of two blocks of `n` cells the later one does not run from its first part into the second part of the earlier one. -/
abbrev NoRun (n : Nat) (a b : U32) : Prop := b.toNat ≤ a.toNat ∨ a.toNat + n ≤ b.toNat

/-- Output blocks written in two parts are those written whole. -/
theorem overlayOuts_append {outs : List (U32 × (α → F))} {ys1 ys2 : List α} {n1 : U32} (hlen : ys1.length = n1.toNat)
    (hpair : outs.Pairwise fun o q => NoRun (ys1.length + ys2.length) o.1 q.1)
    (hfit : ∀ o ∈ outs, ys2 = [] ∨ o.1.toNat + n1.toNat < 2 ^ 32) (old : Nat → F) :
    overlayOuts outs (ys1 ++ ys2) old = overlayOuts (shiftOuts n1 outs) ys2 (overlayOuts outs ys1 old) := by
  induction outs generalizing old with
  | nil => rfl
  | cons o outs ih =>
    obtain ⟨hfirst, hrest⟩ := List.pairwise_cons.1 hpair
    obtain ⟨ho, hfits⟩ := List.forall_mem_cons.1 hfit
    have hshift := overlay_shift (vs := ys2.map o.2) (ho.imp_left fun h => by rw [h, List.map_nil])
    have hcomm := overlayOuts_overlay_comm (outs := outs) (ys := ys1) (a := o.1.toNat + n1.toNat) (vs := ys2.map o.2)
      fun q hq => by
        have := hfirst q hq
        unfold NoRun at this
        rw [List.length_map]
        omega
    calc overlayOuts (o :: outs) (ys1 ++ ys2) old
        = overlayOuts outs (ys1 ++ ys2) (overlay o.1.toNat ((ys1 ++ ys2).map o.2) old) := rfl
      _ = overlayOuts outs (ys1 ++ ys2) (overlay (o.1.toNat + n1.toNat) (ys2.map o.2)
            (overlay o.1.toNat (ys1.map o.2) old)) := by rw [List.map_append, overlay_append, List.length_map, hlen]
      _ = overlayOuts (shiftOuts n1 outs) ys2 (overlay (o.1 + n1).toNat (ys2.map o.2)
            (overlayOuts outs ys1 (overlay o.1.toNat (ys1.map o.2) old))) := by rw [ih hrest hfits, hcomm, hshift]
      _ = overlayOuts (shiftOuts n1 (o :: outs)) ys2 (overlayOuts (o :: outs) ys1 old) := rfl

end

/-! ### Block commands -/

/-- What the block commands share: the states that command `i` can reach from `s` are those `st v r m` with a value `v` of
the unit, argument registers `r` and a data memory `m`; the command feeds its input block through `f` and writes its output
blocks. `good` says what the checks ask of the unit. -/
structure BlockUnit {τ α : Type} (i : Instr) (s : State) (st : τ → IntArgs → Memory → State) (f : τ → F → τ × α)
    (outs : IntArgs → List (U32 × (α → F))) (good : τ → Prop) : Prop where
  setR : ∀ v r m r', { st v r m with r := r' } = st v r' m
  update : ∀ v r m r' m', { st v r m with r := r', dm := m' } = st v r' m'
  dm : ∀ v r m, (st v r m).dm = m
  readDM : ∀ v r m, (st v r m).readDM = Memory.get (s.free .dm) m
  halt : ∀ v r m, (st v r m).halt = s.halt
  start : ∃ v, good v ∧ st v s.r s.dm = s
  keeps : ∀ v x, good v → good (f v x).1
  passes : ∀ v r m, good v → (i.fault? (st v r m) = none ↔
    r.r2.toNat ≤ s.params.blkMax ∧ s.inRange r.r0 r.r2.toNat ∧ ∀ o ∈ outs r, s.inRange o.1 r.r2.toNat)
  effect : ∀ v r m, good v → i.effect (st v r m) =
    st (runBlock f v (Memory.readBlock (s.free .dm) m r.r0.toNat r.r2.toNat)).1 r
      (writeOuts (outs r) (runBlock f v (Memory.readBlock (s.free .dm) m r.r0.toNat r.r2.toNat)).2 m)

/-- A block command of which every check passes. -/
theorem BlockUnit.exec_eq {τ α : Type} {i : Instr} {s : State} {st : τ → IntArgs → Memory → State} {f : τ → F → τ × α}
    {outs : IntArgs → List (U32 × (α → F))} {good : τ → Prop} (hu : BlockUnit i s st f outs good) {v : τ} (hv : good v)
    {r : IntArgs} {m : Memory} {run : τ × List α}
    (hrun : run = runBlock f v (Memory.readBlock (s.free .dm) m r.r0.toNat r.r2.toNat))
    (h : r.r2.toNat ≤ s.params.blkMax ∧ s.inRange r.r0 r.r2.toNat ∧ ∀ o ∈ outs r, s.inRange o.1 r.r2.toNat) :
    exec i (st v r m) = .next (st run.1 r (writeOuts (outs r) run.2 m)) := by
  rw [exec_of_no_fault ((hu.passes v r m hv).2 h), hu.effect v r m hv, hrun]

/-- The last cell of a block's second part lies below the end of the address space. -/
theorem addr_of_inRange {s : State} (hwf : s.params.dmWords ≤ 2 ^ 32) {a : U32} {n1 n2 : U32}
    (h : s.inRange a (n1.toNat + n2.toNat)) : n2.toNat = 0 ∨ a.toNat + n1.toNat < 2 ^ 32 := by
  unfold State.inRange at h
  omega

/-- Both parts of a block in range are in range. -/
theorem inRange_parts {s : State} (hwf : s.params.dmWords ≤ 2 ^ 32) {a n1 n2 : U32}
    (h : s.inRange a (n1.toNat + n2.toNat)) : s.inRange a n1.toNat ∧ s.inRange (a + n1) n2.toNat := by
  have hmod := addr_of_inRange hwf h
  unfold State.inRange at h ⊢
  rw [BitVec.toNat_add]
  obtain h0 | hlt := hmod
  · omega
  · rw [Nat.mod_eq_of_lt hlt]
    omega

/-- The second part of the input block is not written by the first parts of the output blocks. -/
theorem readBlock_writeOuts_second {α : Type} (free : Nat → F) (m : Memory) {outs : List (U32 × (α → F))} {ys : List α}
    {a n1 n2 : U32} (hlen : ys.length = n1.toNat) (haddr : n2.toNat = 0 ∨ a.toNat + n1.toNat < 2 ^ 32)
    (hread : ∀ o ∈ outs, NoRun (n1.toNat + n2.toNat) a o.1) :
    Memory.readBlock free (writeOuts outs ys m) (a + n1).toNat n2.toNat =
      Memory.readBlock free m (a.toNat + n1.toNat) n2.toNat := by
  obtain h0 | hlt := haddr
  · simp [Memory.readBlock, h0]
  · refine List.map_congr_left fun j hj => ?_
    have hj := List.mem_range.1 hj
    rw [BitVec.toNat_add, Nat.mod_eq_of_lt hlt, get_writeOuts, overlayOuts_outside fun o ho => ?_]
    have := hread o ho
    unfold NoRun at this
    omega

/-- Two block commands on the two parts of a block do what one does on the whole. -/
theorem BlockUnit.split {τ α : Type} {i : Instr} {s : State} {st : τ → IntArgs → Memory → State} {f : τ → F → τ × α}
    {outs : IntArgs → List (U32 × (α → F))} {good : τ → Prop} (hu : BlockUnit i s st f outs good)
    (hwf : s.params.dmWords ≤ 2 ^ 32) {n1 n2 : U32} (hn : s.r.r2.toNat = n1.toNat + n2.toNat) (hf : i.fault? s = none)
    (hpair : (s.r.r0 :: (outs s.r).map Prod.fst).Pairwise (NoRun s.r.r2.toNat)) {ra rb : IntArgs}
    (ha : ra.r0 = s.r.r0 ∧ ra.r2 = n1 ∧ outs ra = outs s.r)
    (hb : rb.r0 = s.r.r0 + n1 ∧ rb.r2 = n2 ∧ outs rb = shiftOuts n1 (outs s.r)) :
    ∃ t t1 t2 : State, exec i s = .next t ∧ exec i { s with r := ra } = .next t1 ∧ exec i { t1 with r := rb } = .next t2 ∧
      t1.halt = s.halt ∧ t = { t2 with r := s.r, dm := t.dm } ∧ ∀ a, t.readDM a = t2.readDM a := by
  obtain ⟨v, hv, hstart⟩ := hu.start
  obtain ⟨ha0, ha2, hao⟩ := ha
  obtain ⟨hb0, hb2, hbo⟩ := hb
  obtain ⟨hlen, hin, hout⟩ := (hu.passes v s.r s.dm hv).1 (hstart.symm ▸ hf)
  obtain ⟨hread, hwrites⟩ := List.pairwise_cons.1 hpair
  rw [hn] at hlen hin hout hread hwrites
  have hx := Memory.readBlock_add (s.free .dm) s.dm s.r.r0.toNat n1.toNat n2.toNat
  rw [← hn] at hx
  set x1 := Memory.readBlock (s.free .dm) s.dm s.r.r0.toNat n1.toNat
  set x2 := Memory.readBlock (s.free .dm) s.dm (s.r.r0.toNat + n1.toNat) n2.toNat
  set R1 := runBlock f v x1 with hR1
  set R2 := runBlock f R1.1 x2 with hR2
  have hlen1 : R1.2.length = n1.toNat := by simp [hR1, x1]
  have hlen2 : R2.2.length = n2.toNat := by simp [hR2, x2]
  have hwhole := hu.exec_eq hv (r := s.r) (m := s.dm) (run := (R2.1, R1.2 ++ R2.2))
    (by rw [hx, runBlock_append]) (by rw [hn]; exact ⟨hlen, hin, hout⟩)
  have hfirst := hu.exec_eq hv (r := ra) (m := s.dm) (run := R1) (by rw [ha0, ha2]) (by
    rw [ha0, ha2, hao]
    exact ⟨by omega, (inRange_parts hwf hin).1, fun o ho => (inRange_parts hwf (hout o ho)).1⟩)
  have hsecond := hu.exec_eq (hR1 ▸ runBlock_inv hu.keeps v x1 hv) (r := rb) (m := writeOuts (outs s.r) R1.2 s.dm) (run := R2)
    (by
      rw [hb0, hb2, readBlock_writeOuts_second _ _ hlen1 (addr_of_inRange hwf hin) fun o ho =>
        hread o.1 (List.mem_map_of_mem ho)])
    (by
      rw [hb0, hb2, hbo]
      refine ⟨by omega, (inRange_parts hwf hin).2, fun o ho => ?_⟩
      obtain ⟨q, hq, rfl⟩ := List.mem_map.1 ho
      exact (inRange_parts hwf (hout q hq)).2)
  rw [hstart] at hwhole
  rw [hao] at hfirst
  rw [hbo, ← hu.setR _ ra] at hsecond
  have hsa := hu.setR v s.r s.dm ra
  rw [hstart] at hsa
  refine ⟨_, _, _, hwhole, (congrArg (exec i) hsa).trans hfirst, hsecond, hu.halt _ _ _, ?_, fun a => ?_⟩
  · rw [hu.dm, hu.update]
  · rw [hu.readDM, hu.readDM, get_writeOuts, get_writeOuts, get_writeOuts]
    refine congrFun (overlayOuts_append hlen1 ?_ (fun o ho => ?_) _) a
    · rw [hlen1, hlen2]
      exact List.pairwise_map.1 hwrites
    · exact (addr_of_inRange hwf (hout o ho)).imp_left fun h0 => List.eq_nil_of_length_eq_zero (hlen2.trans h0)

/-! ### The units -/

/-- The one output block of most block commands. -/
def oneOut (r : IntArgs) : List (U32 × (F → F)) := [(r.r1, id)]

theorem writeOuts_oneOut (r : IntArgs) (ys : List F) (m : Memory) :
    writeOuts (oneOut r) ys m = m.writeBlock r.r1.toNat ys := by simp [writeOuts, oneOut]

theorem fault?_eq_none_iff (i : Instr) (s : State) : i.fault? s = none ↔ ∀ c ∈ i.checks s, c.1 = true := by
  rw [← firstFault_checks, firstFault_eq_none]

/-- The checks every block command makes on its length and its two blocks (43_iir_filters.md R300). -/
theorem blockChecks_pass_iff (s : State) : (∀ c ∈ [s.lengthCheck, s.blockCheck s.r.r0 s.r.r2.toNat,
      s.blockCheck s.r.r1 s.r.r2.toNat], c.1 = true) ↔
    s.r.r2.toNat ≤ s.params.blkMax ∧ s.inRange s.r.r0 s.r.r2.toNat ∧ ∀ o ∈ oneOut s.r, s.inRange o.1 s.r.r2.toNat := by
  simp [State.lengthCheck, oneOut]

section
variable (s : State)

theorem spUnit : BlockUnit .spProc s (fun v r m => { s with sp := v, r := r, dm := m }) SinglePole.sample oneOut
    fun _ => True where
  setR _ _ _ _ := rfl
  update _ _ _ _ _ := rfl
  dm _ _ _ := rfl
  readDM _ _ _ := rfl
  halt _ _ _ := rfl
  start := ⟨s.sp, trivial, rfl⟩
  keeps _ _ _ := trivial
  passes v r m _ := (fault?_eq_none_iff _ _).trans (blockChecks_pass_iff { s with sp := v, r := r, dm := m })
  effect v r m _ := by rw [writeOuts_oneOut]; rfl

theorem dlUnit (hlen : s.dl.len ≠ 0#32) : BlockUnit .dlProc s (fun v r m => { s with dl := v, r := r, dm := m }) s.dlSample
    oneOut fun v => v.len ≠ 0#32 where
  setR _ _ _ _ := rfl
  update _ _ _ _ _ := rfl
  dm _ _ _ := rfl
  readDM _ _ _ := rfl
  halt _ _ _ := rfl
  start := ⟨s.dl, hlen, rfl⟩
  keeps _ _ h := h
  passes v r m h := by
    rw [← blockChecks_pass_iff { s with dl := v, r := r, dm := m }, fault?_eq_none_iff, Instr.checks, List.forall_mem_cons]
    exact and_iff_right (decide_eq_true h)
  effect v r m _ := by rw [writeOuts_oneOut]; rfl

theorem cbUnit (hlen : s.dl.len ≠ 0#32) : BlockUnit .cbProc s
    (fun v r m => { s with cb := v.1, dl := v.2, r := r, dm := m }) (combSample s.dlSample) oneOut
    fun v => v.2.len ≠ 0#32 where
  setR _ _ _ _ := rfl
  update _ _ _ _ _ := rfl
  dm _ _ _ := rfl
  readDM _ _ _ := rfl
  halt _ _ _ := rfl
  start := ⟨(s.cb, s.dl), hlen, rfl⟩
  keeps v x h := combOutput_delayLine (P := fun d => d.len ≠ 0#32) (fun _ _ h => h) v.1 h x
  passes v r m h := by
    rw [← blockChecks_pass_iff { s with cb := v.1, dl := v.2, r := r, dm := m }, fault?_eq_none_iff, Instr.checks,
      List.forall_mem_cons]
    exact and_iff_right (decide_eq_true h)
  effect v r m _ := by rw [writeOuts_oneOut]; rfl

theorem peqUnit (hnb : s.peq.nb ≠ 0#32) : BlockUnit .peqProc s (fun v r m => { s with bq := v, r := r, dm := m })
    (cascade s.peq.nb.toNat) oneOut fun _ => True where
  setR _ _ _ _ := rfl
  update _ _ _ _ _ := rfl
  dm _ _ _ := rfl
  readDM _ _ _ := rfl
  halt _ _ _ := rfl
  start := ⟨s.bq, trivial, rfl⟩
  keeps _ _ _ := trivial
  passes v r m _ := by
    rw [← blockChecks_pass_iff { s with bq := v, r := r, dm := m }, fault?_eq_none_iff, Instr.checks, List.forall_mem_cons]
    exact and_iff_right (decide_eq_true hnb)
  effect v r m _ := by rw [writeOuts_oneOut]; rfl

theorem bqUnit {k : Nat} (hk : k < s.params.nbq) (hbq : s.bq.length = s.params.nbq) : BlockUnit (.bqProc k) s
    (fun v r m => { s with bq := s.bq.set k v, r := r, dm := m }) Biquad.sample oneOut fun _ => True where
  setR _ _ _ _ := rfl
  update _ _ _ _ _ := rfl
  dm _ _ _ := rfl
  readDM _ _ _ := rfl
  halt _ _ _ := rfl
  start := by
    refine ⟨s.bq[k], trivial, ?_⟩
    rw [List.set_getElem_self]
  keeps _ _ _ := trivial
  passes v r m _ := by
    rw [← blockChecks_pass_iff { s with bq := s.bq.set k v, r := r, dm := m }, fault?_eq_none_iff, Instr.checks,
      List.forall_mem_cons]
    exact and_iff_right (decide_eq_true hk)
  effect v r m _ := by
    have hsec : State.section { s with bq := s.bq.set k v, r := r, dm := m } k = v := by
      simp [State.section, hbq, hk]
    rw [writeOuts_oneOut, Instr.effect, hsec]
    simp only [State.setSection, List.set_set]
    rfl

/-- The output blocks of `SVF.PROC` that the mask enables, in their order (43_iir_filters.md R331). -/
def svfOuts (m : Nat) (r : IntArgs) : List (U32 × (SvfOut → F)) :=
  (if m.testBit 0 then [(r.r1, SvfOut.hp)] else []) ++ (if m.testBit 1 then [(r.r3, SvfOut.bp)] else []) ++
    (if m.testBit 2 then [(r.r4, SvfOut.lp)] else []) ++ (if m.testBit 3 then [(r.r5, SvfOut.br)] else [])

theorem svfOuts_addresses (m : Nat) : (svfOuts m s.r).map Prod.fst = s.svfOutputs m := by
  simp only [svfOuts, State.svfOutputs, List.map_append, apply_ite (List.map Prod.fst), List.map_cons, List.map_nil]

/-- A masked output block is in range if it is enabled and in range. -/
theorem maskedOut_inRange_iff (on : Bool) (a : U32) (g : SvfOut → F) (n : Nat) :
    (∀ b ∈ if on then [(a, n)] else [], s.inRange b.1 b.2) ↔ ∀ o ∈ if on then [(a, g)] else [], s.inRange o.1 n := by
  cases on <;> simp

theorem writeOuts_masked (on : Bool) (a : U32) (g : SvfOut → F) (ys : List SvfOut) (m : Memory) :
    writeOuts (if on then [(a, g)] else []) ys m = if on then m.writeBlock a.toNat (ys.map g) else m := by
  cases on <;> rfl

theorem writeOuts_append {α : Type} (o1 o2 : List (U32 × (α → F))) (ys : List α) (m : Memory) :
    writeOuts (o1 ++ o2) ys m = writeOuts o2 ys (writeOuts o1 ys m) := List.foldl_append

theorem svfUnit (mask : Nat) : BlockUnit (.svfProc mask) s (fun v r m => { s with svf := v, r := r, dm := m }) Svf.sample
    (svfOuts mask) fun _ => True where
  setR _ _ _ _ := rfl
  update _ _ _ _ _ := rfl
  dm _ _ _ := rfl
  readDM _ _ _ := rfl
  halt _ _ _ := rfl
  start := ⟨s.svf, trivial, rfl⟩
  keeps _ _ _ := trivial
  passes v r m _ := by
    simp only [fault?_eq_none_iff, Instr.checks, List.forall_mem_cons, maskedCheck_passes_iff, blockCheck_passes_iff,
      svfOuts, List.forall_mem_append, and_assoc, List.not_mem_nil, false_implies, implies_true, and_true,
      State.lengthCheck, decide_eq_true_eq]
    rw [← maskedOut_inRange_iff, ← maskedOut_inRange_iff, ← maskedOut_inRange_iff, ← maskedOut_inRange_iff]
  effect v r m _ := by
    simp only [Instr.effect, State.maskedWrite_eq, svfOuts, writeOuts_append, writeOuts_masked]
    rfl

end

theorem wf_dmWords {p : Params} (h : p.wf = true) : p.dmWords ≤ 2 ^ 32 := by
  simp only [Params.wf, Bool.and_eq_true, decide_eq_true_eq] at h
  tauto

/-- Settles O60: the single-output commands and `SVF.PROC` as block units. -/
theorem splitting_a_block_changes_nothing : Obligations.splitting_a_block_changes_nothing := by
  refine ⟨fun i s n1 n2 hi hs hn hf hdisj => ?_, fun m s n1 n2 hs hn hf hpair => ?_⟩
  · have hwf := wf_dmWords hs.params
    have hpair : (s.r.r0 :: (oneOut s.r).map Prod.fst).Pairwise (NoRun s.r.r2.toNat) := by
      simpa [oneOut, NoRun] using hdisj
    simp only [List.mem_cons, List.not_mem_nil, or_false] at hi
    obtain (rfl | rfl | rfl | rfl) | ⟨k, rfl⟩ := hi
    · exact (spUnit s).split hwf hn hf hpair ⟨rfl, rfl, rfl⟩ ⟨rfl, rfl, rfl⟩
    · have hlen := configured_of_no_fault hf (v := s.dl.len) (by simp [Instr.checks])
      exact (dlUnit s hlen).split hwf hn hf hpair ⟨rfl, rfl, rfl⟩ ⟨rfl, rfl, rfl⟩
    · have hlen := configured_of_no_fault hf (v := s.dl.len) (by simp [Instr.checks])
      exact (cbUnit s hlen).split hwf hn hf hpair ⟨rfl, rfl, rfl⟩ ⟨rfl, rfl, rfl⟩
    · have hnb := configured_of_no_fault hf (v := s.peq.nb) (by simp [Instr.checks])
      exact (peqUnit s hnb).split hwf hn hf hpair ⟨rfl, rfl, rfl⟩ ⟨rfl, rfl, rfl⟩
    · have hk := section_of_no_fault hf (k := k) (by simp [Instr.checks])
      exact (bqUnit s hk hs.sections).split hwf hn hf hpair ⟨rfl, rfl, rfl⟩ ⟨rfl, rfl, rfl⟩
  · rw [← svfOuts_addresses] at hpair
    refine (svfUnit s m).split (wf_dmWords hs.params) hn hf hpair ⟨rfl, rfl, rfl⟩ ⟨rfl, rfl, ?_⟩
    simp only [svfOuts, shiftOuts, List.map_append, apply_ite (List.map _), List.map_cons, List.map_nil]

end Sys2Proof.Machine
end

section
/-! Correct rounding (00_scope.md R12, R16): a rounded magnitude lies between the midpoints to its neighbours, and on a
midpoint only when it is even. Every operation's rounding follows, the square root's through the squares of the midpoints. -/

namespace Sys2Proof.Machine

/-! ### Ties of the integer rounding -/

theorem roundDiv_tie_up {n d : Nat} (hd : 0 < d) (h : 2 * n = 2 * (roundDiv n d * d) + d) : roundDiv n d % 2 = 0 := by
  have h1 := Nat.div_add_mod n d
  have h2 := Nat.mod_lt n hd
  rw [Nat.mul_comm] at h1
  unfold roundDiv at h ⊢
  simp only [Bool.or_eq_true, decide_eq_true_eq, Bool.and_eq_true, beq_iff_eq] at h ⊢
  split at h
  · rw [Nat.add_mul] at h
    omega
  · rw [if_neg ‹_›]
    omega

theorem roundDiv_tie_down {n d : Nat} (hd : 0 < d) (h : 2 * (roundDiv n d * d) = 2 * n + d) : roundDiv n d % 2 = 0 := by
  have h1 := Nat.div_add_mod n d
  have h2 := Nat.mod_lt n hd
  rw [Nat.mul_comm] at h1
  unfold roundDiv at h ⊢
  simp only [Bool.or_eq_true, decide_eq_true_eq, Bool.and_eq_true, beq_iff_eq] at h ⊢
  split at h
  · rw [Nat.add_mul] at h
    rw [if_pos ‹_›]
    omega
  · omega

/-! ### Between the midpoints -/

/-- A rounded magnitude, as a significand and a scale. -/
theorem roundMag_form {n d : Nat} (hd : 0 < d) : ∃ sh r, roundMag n d = min (sh * 2 ^ 52 + r) fInfMag ∧
    r = roundDiv n (d * 2 ^ sh) ∧ r ≤ 2 ^ 53 ∧ (sh = 0 ∨ 2 ^ 52 ≤ r) ∧ (sh = 0 ∨ 2 ^ 52 * (d * 2 ^ sh) ≤ n) := by
  obtain ⟨h1, h2⟩ := roundMag_significand n d hd
  refine ⟨Nat.log2 (n / d) - 52, _, rfl, rfl, h1, h2, ?_⟩
  generalize hs : Nat.log2 (n / d) - 52 = sh
  rcases Nat.eq_zero_or_pos sh with h0 | h0
  · exact .inl h0
  · have hne : n / d ≠ 0 := by intro hz; simp [hz] at hs; omega
    have hle : 2 ^ (52 + sh) ≤ n / d := by
      calc 2 ^ (52 + sh) = 2 ^ Nat.log2 (n / d) := by congr 1; omega
        _ ≤ n / d := Nat.log2_self_le hne
    right
    calc 2 ^ 52 * (d * 2 ^ sh) = 2 ^ (52 + sh) * d := by rw [Nat.pow_add]; ring
      _ ≤ n := (Nat.le_div_iff_mul_le hd).1 hle

/-- The next magnitude is at least one unit in the last place further. -/
theorem magValue_succ_ge {sh r : Nat} (hr : r ≤ 2 ^ 53) (h : sh = 0 ∨ 2 ^ 52 ≤ r) :
    (r + 1) * 2 ^ sh ≤ magValue (sh * 2 ^ 52 + r + 1) := by
  rcases hr.lt_or_eq with hlt | rfl
  · rw [Nat.add_assoc, magValue_add sh (r + 1) hlt (by omega)]
  · rw [show sh * 2 ^ 52 + 2 ^ 53 + 1 = (sh + 1) * 2 ^ 52 + (2 ^ 52 + 1) by omega,
      magValue_add (sh + 1) (2 ^ 52 + 1) (by decide) (.inr (by decide)), Nat.pow_succ 2 sh, Nat.mul_comm (2 ^ sh) 2,
      ← Nat.mul_assoc]
    exact Nat.mul_le_mul_right _ (by decide)

/-- The exact value is not above the midpoint to the next magnitude, and on it only below an even one. -/
theorem roundMag_upper {n d : Nat} (hd : 0 < d) (h : roundMag n d < fInfMag) :
    2 * n ≤ (magValue (roundMag n d) + magValue (roundMag n d + 1)) * d ∧
      (2 * n = (magValue (roundMag n d) + magValue (roundMag n d + 1)) * d → roundMag n d % 2 = 0) := by
  obtain ⟨sh, r, hmin, hr, hr53, hsig, -⟩ := roundMag_form (n := n) hd
  have hM : roundMag n d = sh * 2 ^ 52 + r := by omega
  have hD : 0 < d * 2 ^ sh := Nat.mul_pos hd (Nat.two_pow_pos _)
  have hnear := (roundDiv_near n _ hD).1
  have htie := roundDiv_tie_up (n := n) hD
  rw [← hr] at hnear htie
  have hnext : 2 * (r * (d * 2 ^ sh)) + d * 2 ^ sh ≤ (magValue (roundMag n d) + magValue (roundMag n d + 1)) * d := by
    rw [hM, magValue_add sh r hr53 hsig]
    calc 2 * (r * (d * 2 ^ sh)) + d * 2 ^ sh = (r * 2 ^ sh + (r + 1) * 2 ^ sh) * d := by ring
      _ ≤ (r * 2 ^ sh + magValue (sh * 2 ^ 52 + r + 1)) * d :=
        Nat.mul_le_mul_right _ (Nat.add_le_add_left (magValue_succ_ge hr53 hsig) _)
  refine ⟨hnear.trans hnext, fun heq => ?_⟩
  have := htie (by omega)
  omega

/-- The exact value is not below the midpoint to the magnitude before, and on it only above an odd one. -/
theorem roundMag_lower {n d k : Nat} (hd : 0 < d) (h : roundMag n d < fInfMag) (hk : k + 1 = roundMag n d) :
    (magValue k + magValue (roundMag n d)) * d ≤ 2 * n ∧
      ((magValue k + magValue (roundMag n d)) * d = 2 * n → roundMag n d % 2 = 0) := by
  obtain ⟨sh, r, hmin, hr, hr53, hsig, hbig⟩ := roundMag_form (n := n) hd
  have hM : roundMag n d = sh * 2 ^ 52 + r := by omega
  have hp := Nat.two_pow_pos sh
  have hD : 0 < d * 2 ^ sh := Nat.mul_pos hd hp
  have hnear := (roundDiv_near n _ hD).2
  have htie := roundDiv_tie_down (n := n) hD
  rw [← hr] at hnear htie
  rw [hM, magValue_add sh r hr53 hsig]
  by_cases hsame : sh = 0 ∨ 2 ^ 52 < r
  · obtain ⟨q, rfl⟩ : ∃ q, r = q + 1 := ⟨r - 1, by omega⟩
    obtain rfl : k = sh * 2 ^ 52 + q := by omega
    rw [magValue_add sh q (by omega) (by omega)]
    have heq : (q * 2 ^ sh + (q + 1) * 2 ^ sh) * d + d * 2 ^ sh = 2 * ((q + 1) * (d * 2 ^ sh)) := by ring
    refine ⟨by omega, fun he => ?_⟩
    have := htie (by omega)
    omega
  · obtain ⟨s, rfl⟩ : ∃ s, sh = s + 1 := ⟨sh - 1, by omega⟩
    obtain rfl : r = 2 ^ 52 := by omega
    obtain rfl : k = s * 2 ^ 52 + (2 ^ 53 - 1) := by omega
    rw [magValue_add s (2 ^ 53 - 1) (by decide) (.inr (by decide))]
    have hlt : ((2 ^ 53 - 1) * 2 ^ s + 2 ^ 52 * 2 ^ (s + 1)) * d < 2 * (2 ^ 52 * (d * 2 ^ (s + 1))) := by
      calc ((2 ^ 53 - 1) * 2 ^ s + 2 ^ 52 * 2 ^ (s + 1)) * d < (2 ^ 53 * 2 ^ s + 2 ^ 52 * 2 ^ (s + 1)) * d :=
            Nat.mul_lt_mul_of_pos_right
              (Nat.add_lt_add_right (Nat.mul_lt_mul_of_pos_right (by decide) (Nat.two_pow_pos s)) _) hd
        _ = 2 * (2 ^ 52 * (d * 2 ^ (s + 1))) := by rw [Nat.pow_succ 2 s]; ring
    omega

/-! ### Overflow -/

theorem magValue_inf : magValue fInfMag = 2 ^ 53 * 2 ^ 2045 := by
  rw [show fInfMag = 2045 * 2 ^ 52 + 2 ^ 53 by decide, magValue_add _ _ le_rfl (.inr (by decide))]

/-- `overflowAt` is the midpoint between the greatest finite value and the value the infinity's pattern would have. -/
theorem two_mul_overflowAt : 2 * overflowAt = magValue (fInfMag - 1) + magValue fInfMag := by
  rw [magValue_max, magValue_inf, overflowAt, Nat.pow_succ 2 2044]
  generalize 2 ^ 2044 = P
  omega

/-- The same, in units of the last place of the greatest finite value. -/
theorem two_mul_overflowAt_mul (d : Nat) : 2 * (overflowAt * d) = (2 ^ 54 - 1) * (d * 2 ^ 2045) := by
  rw [← Nat.mul_assoc, two_mul_overflowAt, magValue_max, magValue_inf]
  generalize 2 ^ 2045 = P
  rw [← Nat.add_mul, Nat.mul_comm d P, Nat.mul_assoc, show 2 ^ 53 - 1 + 2 ^ 53 = 2 ^ 54 - 1 from rfl]

/-- A significand and scale of at least `2^53` units of scale `S` stand for a value of at least that less half a unit. -/
theorem scaled_overflow {n d sh r S : Nat} (hd : 0 < d) (hr : r = roundDiv n (d * 2 ^ sh)) (hr53 : r ≤ 2 ^ 53)
    (hbig : sh = 0 ∨ 2 ^ 52 * (d * 2 ^ sh) ≤ n) (h : S * 2 ^ 52 + 2 ^ 53 ≤ sh * 2 ^ 52 + r) :
    (2 ^ 54 - 1) * (d * 2 ^ S) ≤ 2 * n := by
  have hnear := (roundDiv_near n _ (Nat.mul_pos hd (Nat.two_pow_pos sh))).2
  rw [← hr] at hnear
  clear hr
  rcases Nat.lt_or_ge S sh with hlt | hge
  · have hn := hbig.resolve_left (by omega)
    have hpow : 2 ^ S * 2 ≤ 2 ^ sh := by
      rw [← Nat.pow_succ]
      exact Nat.pow_le_pow_right (by decide) hlt
    have hmul := Nat.mul_le_mul_left d hpow
    rw [← Nat.mul_assoc] at hmul
    clear hpow hbig hnear
    generalize d * 2 ^ S = D at hmul ⊢
    generalize d * 2 ^ sh = E at hmul hn
    omega
  · obtain rfl : S = sh := by omega
    obtain rfl : r = 2 ^ 53 := by omega
    clear hbig
    generalize d * 2 ^ S = D at hnear ⊢
    omega

theorem fInfMag_eq : fInfMag = 2045 * 2 ^ 52 + 2 ^ 53 := by decide

/-- Exactly from `overflowAt` on the result is an infinity. -/
theorem lt_overflow_of_roundMag_lt {n d : Nat} (hd : 0 < d) (h : roundMag n d < fInfMag) : n < overflowAt * d := by
  obtain ⟨hle, htie⟩ := roundMag_upper hd h
  have hodd : (fInfMag - 1) % 2 = 1 := by decide
  have hmono := magValue_strictMono.monotone (show roundMag n d + 1 ≤ fInfMag by omega)
  have hover := congrArg (· * d) two_mul_overflowAt
  simp only [Nat.mul_assoc] at hover
  rcases Nat.lt_or_ge (roundMag n d) (fInfMag - 1) with hlt | hge
  · have hstrict := Nat.mul_lt_mul_of_pos_right (Nat.add_lt_add_of_lt_of_le (magValue_strictMono hlt) hmono) hd
    omega
  · have hM : roundMag n d = fInfMag - 1 := by omega
    rw [hM, show fInfMag - 1 + 1 = fInfMag by decide, ← hover] at hle htie
    refine lt_of_le_of_ne (by omega) fun heq => ?_
    have := htie (by rw [heq])
    omega

theorem roundMag_lt_iff {n d : Nat} (hd : 0 < d) : roundMag n d < fInfMag ↔ n < overflowAt * d := by
  refine ⟨lt_overflow_of_roundMag_lt hd, fun h => ?_⟩
  by_contra hinf
  obtain ⟨sh, r, hmin, hr, hr53, -, hbig⟩ := roundMag_form (n := n) hd
  have hscaled : 2045 * 2 ^ 52 + 2 ^ 53 ≤ sh * 2 ^ 52 + r := by rw [← fInfMag_eq]; omega
  have hover := (two_mul_overflowAt_mul d).trans_le (scaled_overflow hd hr hr53 hbig hscaled)
  exact absurd (Nat.le_of_mul_le_mul_left hover (by decide)) (Nat.not_le.2 h)

/-! ### The nearest magnitude -/

/-- No magnitude is nearer to the exact value, and one as near leaves the result even. -/
theorem roundMag_nearest {n d : Nat} (hd : 0 < d) (h : roundMag n d < fInfMag) (k : Nat) :
    (((magValue (roundMag n d) * d : Nat) : Int) - n).natAbs ≤ (((magValue k * d : Nat) : Int) - n).natAbs ∧
      (k ≠ roundMag n d → (((magValue k * d : Nat) : Int) - n).natAbs =
        (((magValue (roundMag n d) * d : Nat) : Int) - n).natAbs → roundMag n d % 2 = 0) := by
  rcases Nat.lt_trichotomy k (roundMag n d) with hlt | rfl | hgt
  · obtain ⟨q, hq⟩ : ∃ q, q + 1 = roundMag n d := ⟨roundMag n d - 1, by omega⟩
    obtain ⟨hlow, htie⟩ := roundMag_lower hd h hq
    have hkq := Nat.mul_le_mul_right d (magValue_strictMono.monotone (show k ≤ q by omega))
    have hkM := Nat.mul_lt_mul_of_pos_right (magValue_strictMono hlt) hd
    rw [Nat.add_mul] at hlow htie
    exact ⟨by omega, fun _ heq => htie (by omega)⟩
  · exact ⟨le_rfl, fun hne => absurd rfl hne⟩
  · obtain ⟨hup, htie⟩ := roundMag_upper hd h
    have hkq := Nat.mul_le_mul_right d (magValue_strictMono.monotone (show roundMag n d + 1 ≤ k by omega))
    have hkM := Nat.mul_lt_mul_of_pos_right (magValue_strictMono hgt) hd
    rw [Nat.add_mul] at hup htie
    exact ⟨by omega, fun _ heq => htie (by omega)⟩

/-- The exact value with a sign. -/
def signed (neg : Bool) (n : Nat) : Int := if neg then -(n : Int) else n

theorem fval_signed (x : F) : fval x = signed (fneg? x) (fscaled x) := rfl

theorem fval_roundF (neg : Bool) (n d : Nat) : fval (roundF neg n d) = signed neg (magValue (roundMag n d)) := by
  rw [fval_signed, fneg?_roundF, fscaled_eq, fmag_roundF]

theorem roundMag_zero (d : Nat) : roundMag 0 d = 0 := by simp [roundMag, roundDiv]

theorem signed_mul (neg : Bool) (m d : Nat) : signed neg m * d = signed neg (m * d) := by
  cases neg <;> simp [signed]

/-- A magnitude no nearer than `a` lies at the same distance as `a`, signs included, only as a zero or with the same sign. -/
theorem same_sign_of_distance_eq {a b n : Nat} {σ τ : Bool} (hn : 0 < n)
    (hnear : ((a : Int) - n).natAbs ≤ ((b : Int) - n).natAbs)
    (heq : (signed σ b - signed τ n).natAbs = (signed τ a - signed τ n).natAbs) : b = 0 ∨ σ = τ := by
  cases σ <;> cases τ <;> simp only [signed, if_true, if_false, Bool.false_eq_true, reduceCtorEq, eq_self, or_false, or_true]
    at heq ⊢ <;> omega

/-- A rounded exact value (00_scope.md R12). -/
theorem roundsTo_roundF (neg : Bool) {n d : Nat} (hd : 0 < d) : RoundsTo (roundF neg n d) (signed neg n) d := by
  have habs : (signed neg n).natAbs = n := by cases neg <;> simp [signed]
  have hfinite : isfinite (roundF neg n d) = true → roundMag n d < fInfMag := fun h => by simpa [isfinite] using h
  refine ⟨fun hne => ?_, fun h => ?_, fun h => ?_, fun h z _ => ?_, fun h z _ hne heq => ?_⟩
  · cases neg <;> simp [signed] at hne ⊢
    omega
  · rw [habs, ← roundMag_lt_iff hd] at h
    simpa [isfinite] using h
  · rw [habs, ← not_lt, ← roundMag_lt_iff hd] at h
    have := roundMag_le n d
    rw [isInf, fmag_roundF, decide_eq_true_eq]
    omega
  · have hnear := (roundMag_nearest hd (hfinite h) (fmag z)).1
    rw [fval_roundF, fval_signed z, fscaled_eq, signed_mul, signed_mul]
    generalize magValue (fmag z) * d = b at hnear ⊢
    generalize magValue (roundMag n d) * d = a at hnear ⊢
    cases neg <;> cases fneg? z <;> simp only [signed, if_true, if_false, Bool.false_eq_true] <;> omega
  · rcases Nat.eq_zero_or_pos n with rfl | hn
    · simp [fmag_roundF, roundMag_zero]
    obtain ⟨hnear, htie⟩ := roundMag_nearest hd (hfinite h) (fmag z)
    rw [fval_roundF, fval_signed z, fscaled_eq] at hne heq
    rw [signed_mul, signed_mul] at heq
    rw [fmag_roundF]
    -- the other value is a zero, or has the sign of the exact value
    have hsign := same_sign_of_distance_eq hn hnear heq
    have hval : signed (fneg? z) (magValue (fmag z)) = signed neg (magValue (fmag z)) := by
      rcases hsign with h0 | hsame
      · have : magValue (fmag z) = 0 := (Nat.mul_eq_zero.1 h0).resolve_right hd.ne'
        cases neg <;> cases fneg? z <;> simp [signed, this]
      · rw [hsame]
    rw [← signed_mul (fneg? z), hval, signed_mul] at heq
    refine htie (fun hk => hne (by rw [hval, hk])) ?_
    generalize magValue (fmag z) * d = b at heq ⊢
    generalize magValue (roundMag n d) * d = a at heq ⊢
    cases neg <;> simp only [signed, if_true, if_false, Bool.false_eq_true] at heq <;> omega

/-- The same of a signed exact value, whose zero may have either sign. -/
theorem roundsTo_of_int (neg : Bool) {v : Int} {d : Nat} (hd : 0 < d) (hneg : v ≠ 0 → neg = decide (v < 0)) :
    RoundsTo (roundF neg v.natAbs d) v d := by
  have hv : signed neg v.natAbs = v := by
    by_cases h0 : v = 0
    · cases neg <;> simp [signed, h0]
    · rw [hneg h0, signed]
      split <;> rename_i hlt <;> simp only [decide_eq_true_eq] at hlt <;> omega
  simpa only [hv] using roundsTo_roundF neg hd (n := v.natAbs)

theorem roundSum_eq_roundF (b : Bool) (v : Int) : roundSum b v = roundF (if v = 0 then b else decide (v < 0)) v.natAbs 1 := by
  unfold roundSum
  split
  · rw [roundF, ‹v = 0›, Int.natAbs_zero, roundMag_zero]
  · rfl

theorem roundsTo_roundSum (b : Bool) (v : Int) : RoundsTo (roundSum b v) v 1 := by
  rw [roundSum_eq_roundF]
  exact roundsTo_of_int _ Nat.one_pos fun h => if_neg h

end Sys2Proof.Machine
end

section
/-! Integers and the five operations (00_scope.md R12, R16), each one rounding of its exact result. -/

namespace Sys2Proof.Machine

/-! ### Integers -/

/-- `floor(v)` is the greatest integer not above `v`. -/
theorem le_ffloor_iff (v : F) (n : Int) : n ≤ ffloor v ↔ n * (fUnit : Int) ≤ fval v :=
  Int.le_ediv_iff_mul_le (Int.natCast_pos.2 fUnit_pos)

/-- Settles O22. -/
theorem integers_convert_exactly : Obligations.integers_convert_exactly := by
  refine ⟨fun n => roundsTo_roundSum _ _, fun n => fofInt_exact, fun v _ => ⟨?_, ?_, ?_, ?_⟩⟩
  · exact (le_ffloor_iff v _).1 le_rfl
  · exact not_le.1 fun h => absurd ((le_ffloor_iff v _).2 h) (by omega)
  · exact not_le.1 fun h => absurd ((fceil_le_iff v _).2 h) (by omega)
  · exact (fceil_le_iff v _).1 le_rfl

/-! ### Addition, subtraction, multiplication, division -/

theorem signedZero_eq (neg : Bool) : signedZero neg = fpack neg 0 := by cases neg <;> rfl

theorem roundSum_zero (b : Bool) : roundSum b 0 = signedZero b := (if_pos rfl).trans (signedZero_eq b).symm

theorem roundF_zero (neg : Bool) (d : Nat) : roundF neg 0 d = signedZero neg := by
  rw [roundF, roundMag_zero, signedZero_eq]

theorem fval_eq_zero_iff (x : F) : fval x = 0 ↔ fscaled x = 0 := by
  unfold fval
  split <;> omega

theorem signed_mul_signed (a b : Bool) (m n : Nat) : signed a m * signed b n = signed (a != b) (m * n) := by
  cases a <;> cases b <;> simp [signed]

theorem fscaled_pos {y : F} (h : isZero y = false) : 0 < fscaled y :=
  Nat.pos_of_ne_zero fun h0 => by simp [(fscaled_eq_zero y).1 h0] at h

theorem roundsTo_fmul {x y : F} (hx : isfinite x = true) (hy : isfinite y = true) :
    RoundsTo (fmul x y) (fval x * fval y) fUnit := by
  rw [fmul_of_finite hx hy, fval_signed, fval_signed, signed_mul_signed]
  exact roundsTo_roundF _ fUnit_pos

theorem roundsTo_fdiv {x y : F} (hx : isfinite x = true) (hy : isfinite y = true) (h0 : isZero y = false) :
    RoundsTo (fdiv x y) (if fneg? y then -(fval x * fUnit) else fval x * fUnit) (fscaled y) := by
  have hv : (if fneg? y then -(fval x * fUnit) else fval x * fUnit) =
      signed (fneg? x != fneg? y) (fscaled x * fUnit) := by
    rw [fval_signed x, signed_mul]
    generalize fUnit = u
    cases fneg? x <;> cases fneg? y <;> simp [signed]
  rw [fdiv_of_finite hx hy h0, hv]
  exact roundsTo_roundF _ (fscaled_pos h0)

/-- A finite value over a zero is an infinity. -/
theorem fdiv_zero {x y : F} (hx : isfinite x = true) (hy : isfinite y = true) (hx0 : isZero x = false) (hy0 : isZero y = true) :
    fdiv x y = fpack (fneg? x != fneg? y) fInfMag := by
  simp [fdiv, isNaN_of_isfinite, isInf_of_isfinite, hx, hy, hx0, hy0]

/-- A zero or an infinity is no NaN. -/
theorem isNaN_of_isZero {x : F} (h : isZero x = true) : isNaN x = false := by
  simp only [isZero, decide_eq_true_eq] at h
  simp [isNaN, h]

theorem isNaN_of_isInf {x : F} (h : isInf x = true) : isNaN x = false := by
  simp only [isInf, decide_eq_true_eq] at h
  simp [isNaN, h]

theorem isInf_of_isZero {x : F} (h : isZero x = true) : isInf x = false := by
  simp only [isZero, decide_eq_true_eq] at h
  rw [isInf, h]
  decide

/-- What the operations give two finite operands. -/
theorem finite_arithmetic {x y : F} (hx : isfinite x = true) (hy : isfinite y = true) :
    RoundsTo (fadd x y) (fval x + fval y) 1 ∧ RoundsTo (fsub x y) (fval x - fval y) 1 ∧
    RoundsTo (fmul x y) (fval x * fval y) fUnit ∧
    (isZero y = false →
      RoundsTo (fdiv x y) (if fneg? y then -(fval x * fUnit) else fval x * fUnit) (fscaled y)) ∧
    (fval x + fval y = 0 → fadd x y = signedZero (fneg? x && fneg? y)) ∧
    (fval x - fval y = 0 → fsub x y = signedZero (fneg? x && !fneg? y)) ∧
    (fval x * fval y = 0 → fmul x y = signedZero (fneg? x != fneg? y)) ∧
    (fval x = 0 → isZero y = false → fdiv x y = signedZero (fneg? x != fneg? y)) ∧
    (isZero x = false → isZero y = true → isInf (fdiv x y) = true ∧ fneg? (fdiv x y) = (fneg? x != fneg? y)) := by
  rw [fadd_of_finite hx hy, fsub_of_finite hx hy]
  refine ⟨roundsTo_roundSum _ _, roundsTo_roundSum _ _, roundsTo_fmul hx hy, roundsTo_fdiv hx hy, fun h => ?_, fun h => ?_,
    fun h => ?_, fun h h0 => ?_, fun hx0 hy0 => ?_⟩
  · rw [h, roundSum_zero]
  · rw [h, roundSum_zero]
  · rw [fmul_of_finite hx hy]
    have hn : fscaled x * fscaled y = 0 := by
      rcases Int.mul_eq_zero.1 h with h | h <;> rw [fval_eq_zero_iff] at h <;> simp [h]
    rw [hn, roundF_zero]
  · rw [fdiv_of_finite hx hy h0, (fval_eq_zero_iff x).1 h, Nat.zero_mul, roundF_zero]
  · rw [fdiv_zero hx hy hx0 hy0]
    exact ⟨by rw [isInf, fmag_fpack _ fInfMag_lt]; simp, fneg?_fpack _ fInfMag_lt⟩

/-- An operation with a NaN operand gives a NaN. -/
theorem nan_operand {x y : F} (h : isNaN x = true ∨ isNaN y = true) :
    isNaN (fadd x y) = true ∧ isNaN (fsub x y) = true ∧ isNaN (fmul x y) = true ∧ isNaN (fdiv x y) = true := by
  have hor : (isNaN x || isNaN y) = true := by simpa using h
  simp only [fadd, fsub, faddAs, fmul, fdiv, hor, if_true, isNaN_fnan, and_self]

/-- Opposite infinities have no sum, like ones no difference and no two a quotient. -/
theorem infinite_operands {x y : F} (hx : isInf x = true) (hy : isInf y = true) :
    (fneg? x ≠ fneg? y → isNaN (fadd x y) = true) ∧ (fneg? x = fneg? y → isNaN (fsub x y) = true) ∧
      isNaN (fdiv x y) = true := by
  have hnx := isNaN_of_isInf hx
  have hny := isNaN_of_isInf hy
  refine ⟨fun h => ?_, fun h => ?_, ?_⟩
  · simp [fadd, faddAs, hnx, hny, hx, hy, h]
  · simp [fsub, faddAs, hnx, hny, hx, hy, h]
  · simp [fdiv, hnx, hny, hx, hy]

theorem infinity_times_zero {x y : F} (hx : isInf x = true) (hy : isZero y = true) :
    isNaN (fmul x y) = true ∧ isNaN (fmul y x) = true := by
  simp [fmul, isNaN_of_isInf hx, isNaN_of_isZero hy, isInf_of_isZero hy, hx, hy]

theorem zero_over_zero {x y : F} (hx : isZero x = true) (hy : isZero y = true) : isNaN (fdiv x y) = true := by
  simp [fdiv, isNaN_of_isZero hx, isNaN_of_isZero hy, isInf_of_isZero hx, isInf_of_isZero hy, hx, hy]

/-! ### The integer square root -/

theorem isqrtFrom_spec (n : Nat) : ∀ k acc, acc * acc ≤ n → n < (acc + 2 ^ k) * (acc + 2 ^ k) →
    isqrtFrom n k acc * isqrtFrom n k acc ≤ n ∧ n < (isqrtFrom n k acc + 1) * (isqrtFrom n k acc + 1)
  | 0, acc, hle, hlt => ⟨hle, hlt⟩
  | k + 1, acc, hle, hlt => by
    unfold isqrtFrom
    split
    · refine isqrtFrom_spec n k _ ‹_› ?_
      rwa [Nat.add_assoc, ← Nat.two_mul, ← Nat.pow_succ']
    · exact isqrtFrom_spec n k acc hle (not_le.1 ‹_›)

theorem isqrt_spec (n : Nat) : isqrt n * isqrt n ≤ n ∧ n < (isqrt n + 1) * (isqrt n + 1) := by
  refine isqrtFrom_spec n _ 0 (Nat.zero_le _) ?_
  rw [Nat.zero_add, ← Nat.pow_add]
  exact Nat.lt_log2_self.trans_le (Nat.pow_le_pow_right (by decide) (by omega))

/-- Twice the integer root of `n`, with the remainder as its low bit. -/
def stickyRoot (n : Nat) : Nat := 2 * isqrt n + (if isqrt n * isqrt n = n then 0 else 1)

/-- It is on the same side of every even number as twice the exact root is. -/
theorem stickyRoot_le {n S : Nat} (h : stickyRoot n ≤ 2 * S) : n ≤ S * S := by
  obtain ⟨hle, hlt⟩ := isqrt_spec n
  unfold stickyRoot at h
  split at h
  · have := Nat.mul_self_le_mul_self (show isqrt n ≤ S by omega)
    omega
  · have := Nat.mul_self_le_mul_self (show isqrt n + 1 ≤ S by omega)
    omega

theorem le_stickyRoot {n S : Nat} (h : 2 * S ≤ stickyRoot n) : S * S ≤ n := by
  have hle := (isqrt_spec n).1
  have hS : S ≤ isqrt n := by
    unfold stickyRoot at h
    split at h <;> omega
  exact (Nat.mul_self_le_mul_self hS).trans hle

theorem stickyRoot_mul_self (S : Nat) : stickyRoot (S * S) = 2 * S := by
  obtain ⟨hle, hlt⟩ := isqrt_spec (S * S)
  have h1 := Nat.mul_self_le_mul_self_iff.1 hle
  have h2 := Nat.mul_self_lt_mul_self_iff.1 hlt
  have heq : isqrt (S * S) = S := by omega
  simp [stickyRoot, heq]

/-! ### The square root -/

/-- The exact square of twice the root of `x`, in units. -/
def rootSquare (x : F) : Nat := 4 * (fscaled x * fUnit)

theorem fval_eq_fscaled {x : F} (h : 0 ≤ fval x) : fval x = fscaled x := by
  unfold fval at h ⊢
  split at h
  · rw [if_pos ‹_›]
    omega
  · rw [if_neg ‹_›]

theorem fsqrt_of_pos {x : F} (hx : isfinite x = true) (hneg : fneg? x = false) (h0 : isZero x = false) :
    fsqrt x = roundF false (stickyRoot (rootSquare x)) 4 := by
  simp only [fsqrt, isNaN_of_isfinite hx, isInf_of_isfinite hx, hneg, h0, Bool.false_eq_true, if_false]
  rfl

/-- The square root of a finite value is far from overflow. -/
theorem rootSquare_small {x : F} (hx : isfinite x = true) : rootSquare x ≤ 2 ^ 1588 * 2 ^ 1588 := by
  have hmag : fmag x < fInfMag := by simpa [isfinite] using hx
  have hle := (magValue_strictMono hmag).le
  rw [← fscaled_eq] at hle
  calc rootSquare x ≤ 4 * (magValue fInfMag * fUnit) := Nat.mul_le_mul_left _ (Nat.mul_le_mul_right _ hle)
    _ ≤ 2 ^ 1588 * 2 ^ 1588 := by
      rw [magValue_inf]
      decide +kernel

theorem roundMag_rootSquare_lt {x : F} (hx : isfinite x = true) :
    roundMag (stickyRoot (rootSquare x)) 4 < fInfMag := by
  rw [roundMag_lt_iff (by decide)]
  have hroot := Nat.mul_self_le_mul_self_iff.1 ((isqrt_spec _).1.trans (rootSquare_small hx))
  have hbig : 2 * 2 ^ 1588 + 1 < overflowAt * 4 := by decide +kernel
  refine lt_of_le_of_lt ?_ hbig
  unfold stickyRoot
  generalize 2 ^ 1588 = P at hroot
  split <;> omega

/-- Every value lies on the same side of the rounded root as the squares of the midpoints say, and a midpoint leaves the
root even. -/
theorem root_nearest {x : F} (hx : isfinite x = true) (k : Nat) {m : Nat}
    (hm : roundMag (stickyRoot (rootSquare x)) 4 = m) :
    (m < k → rootSquare x ≤ (magValue m + magValue k) * (magValue m + magValue k)) ∧
    (k < m → (magValue m + magValue k) * (magValue m + magValue k) ≤ rootSquare x) ∧
    (k ≠ m → (magValue m + magValue k) * (magValue m + magValue k) = rootSquare x → m % 2 = 0) := by
  have hM := roundMag_rootSquare_lt hx
  have hup := roundMag_upper (by decide) hM
  have hlow := fun q => roundMag_lower (k := q) (by decide) hM
  rw [hm] at hup hlow
  have hle : m < k → magValue (m + 1) ≤ magValue k := fun h => magValue_strictMono.monotone h
  refine ⟨fun h => stickyRoot_le ?_, fun h => le_stickyRoot ?_, fun hne hS => ?_⟩
  · have := hle h
    omega
  · obtain ⟨q, hq⟩ : ∃ q, q + 1 = m := ⟨m - 1, by omega⟩
    have := (hlow q hq).1
    have := magValue_strictMono.monotone (show k ≤ q by omega)
    omega
  · have hroot := stickyRoot_mul_self (magValue m + magValue k)
    rw [hS] at hroot
    rcases Nat.lt_or_gt_of_ne hne with hlt | hgt
    · obtain ⟨q, hq⟩ : ∃ q, q + 1 = m := ⟨m - 1, by omega⟩
      obtain ⟨_, htie⟩ := hlow q hq
      have := magValue_strictMono.monotone (show k ≤ q by omega)
      exact htie (by omega)
    · have := hle hgt
      exact hup.2 (by omega)

/-- The square root of a finite value that is not negative. -/
theorem finite_root {x : F} (hx : isfinite x = true) (hneg : fneg? x = false) :
    isfinite (fsqrt x) = true ∧ fneg? (fsqrt x) = false ∧ ∀ z, isfinite z = true → 0 ≤ fval z →
      (fval (fsqrt x) < fval z → 4 * (fval x * fUnit) ≤ (fval (fsqrt x) + fval z) ^ 2) ∧
      (fval z < fval (fsqrt x) → (fval (fsqrt x) + fval z) ^ 2 ≤ 4 * (fval x * fUnit)) ∧
      (fval z ≠ fval (fsqrt x) → (fval (fsqrt x) + fval z) ^ 2 = 4 * (fval x * fUnit) → fmag (fsqrt x) % 2 = 0) := by
  by_cases h0 : isZero x = true
  · have hroot : fsqrt x = x := by simp [fsqrt, isNaN_of_isfinite hx, h0]
    have hval := fval_of_isZero h0
    have hmag : fmag x = 0 := by simpa [isZero] using h0
    rw [hroot, hval]
    refine ⟨hx, hneg, fun z _ hz => ⟨fun _ => ?_, fun h => absurd hz (by omega), fun _ _ => by rw [hmag]⟩⟩
    rw [Int.zero_mul, Int.mul_zero]
    positivity
  · have hroot := fsqrt_of_pos hx hneg (Bool.not_eq_true _ ▸ h0)
    have hfin : isfinite (fsqrt x) = true := by
      rw [hroot, isfinite, fmag_roundF]
      exact decide_eq_true (roundMag_rootSquare_lt hx)
    have hvalx : fval x = fscaled x := by simp [fval, hneg]
    refine ⟨hfin, by rw [hroot, fneg?_roundF], fun z _ hz => ?_⟩
    obtain ⟨habove, hbelow, htie⟩ := root_nearest hx (fmag z) rfl
    have hlt := magValue_strictMono.lt_iff_lt (a := roundMag (stickyRoot (rootSquare x)) 4) (b := fmag z)
    have hgt := magValue_strictMono.lt_iff_lt (a := fmag z) (b := roundMag (stickyRoot (rootSquare x)) 4)
    have hsquare : 4 * (fval x * (fUnit : Int)) = (rootSquare x : Nat) := by rw [hvalx, rootSquare]; push_cast; rfl
    rw [hsquare, fval_eq_fscaled hz, hroot, fval_roundF, fmag_roundF, fscaled_eq]
    simp only [signed, Bool.false_eq_true, if_false]
    generalize roundMag (stickyRoot (rootSquare x)) 4 = m at *
    refine ⟨fun h => ?_, fun h => ?_, fun hne h => ?_⟩
    · rw [sq]
      exact_mod_cast habove (hlt.1 (by omega))
    · rw [sq]
      exact_mod_cast hbelow (hgt.1 (by omega))
    · rw [sq] at h
      exact htie (fun he => hne (by rw [he])) (by exact_mod_cast h)

theorem fsqrt_special (x : F) : (isZero x = true → fsqrt x = x) ∧
    (isNaN x = true ∨ (fneg? x = true ∧ isZero x = false) → isNaN (fsqrt x) = true) := by
  refine ⟨fun h => ?_, fun h => ?_⟩
  · simp [fsqrt, isNaN_of_isZero h, h]
  · unfold fsqrt
    rcases h with h | ⟨hneg, h0⟩
    · rw [if_pos h, isNaN_fnan]
    · simp [hneg, h0]

/-- Settles O23. -/
theorem arithmetic_rounds_to_nearest : Obligations.arithmetic_rounds_to_nearest :=
  ⟨fun _ _ => finite_arithmetic, fun _ => finite_root, fun _ _ => nan_operand, fun _ _ => infinite_operands,
    fun _ _ => infinity_times_zero, fun _ _ => zero_over_zero, fsqrt_special⟩

end Sys2Proof.Machine
end

section
/-! The exact cases of the configured functions (00_scope.md R14 (b), (c)), their NaNs and the range of `phase`. -/

namespace Sys2Proof.Machine

theorem isfinite_of_isZero {x : F} (h : isZero x = true) : isfinite x = true := by
  simp only [isZero, decide_eq_true_eq] at h
  rw [isfinite, h]
  decide

theorem isfinite_of_isNaN {x : F} (h : isNaN x = true) : isfinite x = false :=
  Bool.eq_false_iff.2 fun hf => by simp [isNaN_of_isfinite hf] at h

theorem isfinite_of_isInf {x : F} (h : isInf x = true) : isfinite x = false :=
  Bool.eq_false_iff.2 fun hf => by simp [isInf_of_isfinite hf] at h

theorem nsin_zero (p : Params) {x : F} (h : isZero x = true) : nsin p x = x := by
  rw [nsin, if_neg (by simp [isfinite_of_isZero h]), if_pos h]

theorem ncos_zero (p : Params) {x : F} (h : isZero x = true) : ncos p x = fone := by
  rw [ncos, if_neg (by simp [isfinite_of_isZero h]), if_pos h]

theorem nexp_zero (p : Params) {x : F} (h : isZero x = true) : nexp p x = fone := by
  rw [nexp, if_neg (by simp [isNaN_of_isZero h]), if_pos h]

theorem npow10_zero (p : Params) {x : F} (h : isZero x = true) : npow10 p x = fone := by
  rw [npow10, if_neg (by simp [isNaN_of_isZero h]), if_pos h]

theorem nlog10_one (p : Params) : nlog10 p fone = fzero := by
  rw [nlog10, if_neg (by decide), if_pos (by decide)]

/-- `sin` and `cos` of anything not finite are NaNs. -/
theorem isNaN_nsin_ncos (p : Params) {x : F} (h : isfinite x = false) : isNaN (nsin p x) = true ∧ isNaN (ncos p x) = true := by
  rw [nsin, ncos, h, Bool.not_false, if_pos rfl, if_pos rfl]
  exact ⟨isNaN_fnan _ _ _, isNaN_fnan _ _ _⟩

theorem isNaN_natan2 (p : Params) {x y : F} (h : isNaN y = true ∨ isNaN x = true) : isNaN (natan2 p y x) = true := by
  rw [natan2, if_pos (by simpa using h), isNaN_fnan]

/-- A NaN operand gives a NaN. -/
theorem isNaN_configured (p : Params) {x : F} (h : isNaN x = true) :
    isNaN (nsin p x) = true ∧ isNaN (ncos p x) = true ∧ isNaN (nexp p x) = true ∧ isNaN (npow10 p x) = true ∧
      isNaN (nlog10 p x) = true ∧ ∀ y, isNaN (natan2 p x y) = true ∧ isNaN (natan2 p y x) = true := by
  obtain ⟨hsin, hcos⟩ := isNaN_nsin_ncos p (isfinite_of_isNaN h)
  refine ⟨hsin, hcos, ?_, ?_, ?_, fun y => ⟨isNaN_natan2 p (.inl h), isNaN_natan2 p (.inr h)⟩⟩
  · rw [nexp, if_pos h, isNaN_fnan]
  · rw [npow10, if_pos h, isNaN_fnan]
  · rw [nlog10, if_pos h, isNaN_fnan]

theorem inTurn_cPI : inTurn cPI = true := by decide

theorem fneg_cPI : fneg cPI = 0xC00921FB54442D18#64 := by decide

/-- `phase` of two numbers lies in the turn. -/
theorem inTurn_phase (p : Params) {re im : F} (hre : isNaN re = false) (him : isNaN im = false) :
    inTurn (phase p re im) = true := by
  unfold phase
  simp only [hre, him, Bool.false_or]
  split
  · assumption
  · exact inTurn_cPI

/-- Settles O21. -/
theorem configured_functions_exact_cases : Obligations.configured_functions_exact_cases := by
  refine fun p => ⟨nsin_zero p (by decide), nsin_zero p (by decide),
    fun x h => ⟨ncos_zero p h, nexp_zero p h, npow10_zero p h⟩, nlog10_one p, fun x => isNaN_configured p,
    fun x h => isNaN_nsin_ncos p (isfinite_of_isInf h), fun re im hre him => ?_⟩
  have hturn := inTurn_phase p hre him
  rw [inTurn, fneg_cPI, Bool.and_eq_true] at hturn
  exact hturn

end Sys2Proof.Machine
end

section
/-! F values as numbers: a zero of either sign adds and subtracts nothing, and scales to a zero. With it, the filters at their
reset coefficients (10_state.md R70) and the delay line at a whole delay (42_delay_line.md R269). -/

namespace Sys2Proof.Machine

/-! ### Exact results -/

/-- `x` is finite and stands for the number `v`, in units of `2^-1074`. -/
def IsValue (x : F) (v : Int) : Prop := isfinite x = true ∧ fval x = v

theorem IsValue.of_finite {x : F} (h : isfinite x = true) : IsValue x (fval x) := ⟨h, rfl⟩

theorem IsValue.of_isZero {x : F} (h : isZero x = true) : IsValue x 0 := ⟨isfinite_of_isZero h, fval_of_isZero h⟩

theorem IsValue.zero : IsValue 0#64 0 := .of_isZero rfl

/-- Equal numbers compare equal. -/
theorem IsValue.feq {x y : F} {v : Int} (hx : IsValue x v) (hy : IsValue y v) : feq x y = true := by
  rw [feq_iff (isNaN_of_isfinite hx.1) (isNaN_of_isfinite hy.1), fkey_eq_iff, hx.2, hy.2]

theorem fval_natAbs (x : F) : (fval x).natAbs = magValue (fmag x) := by
  rw [← fscaled_eq, fval]
  split <;> omega

/-- A sum that is the number of a finite value is not rounded. -/
theorem IsValue.roundSum {x : F} {v w : Int} (hx : IsValue x v) (b : Bool) (hw : w = v) : IsValue (roundSum b w) v := by
  obtain ⟨hfin, rfl⟩ := hx
  subst hw
  exact roundSum_exact b (of_decide_eq_true hfin) (fval_natAbs x)

theorem IsValue.fadd_zero {x z : F} {v : Int} (hx : IsValue x v) (hz : IsValue z 0) : IsValue (fadd x z) v := by
  rw [fadd_of_finite hx.1 hz.1]
  exact hx.roundSum _ (by rw [hx.2, hz.2, Int.add_zero])

theorem IsValue.fsub_zero {x z : F} {v : Int} (hx : IsValue x v) (hz : IsValue z 0) : IsValue (fsub x z) v := by
  rw [fsub_of_finite hx.1 hz.1]
  exact hx.roundSum _ (by rw [hx.2, hz.2, Int.sub_zero])

theorem isZero_signedZero (neg : Bool) : isZero (signedZero neg) = true := by cases neg <;> decide

/-- A zero times a finite value is a zero. -/
theorem IsValue.zero_fmul {x z : F} (hz : IsValue z 0) (hx : isfinite x = true) : IsValue (fmul z x) 0 := by
  rw [fmul_of_finite hz.1 hx, (fval_eq_zero_iff z).1 hz.2, Nat.zero_mul, roundF_zero]
  exact .of_isZero (isZero_signedZero _)

theorem IsValue.fmul_zero {x z : F} (hx : isfinite x = true) (hz : IsValue z 0) : IsValue (fmul x z) 0 := by
  rw [fmul_of_finite hx hz.1, (fval_eq_zero_iff z).1 hz.2, Nat.mul_zero, roundF_zero]
  exact .of_isZero (isZero_signedZero _)

theorem fscaled_fone : fscaled fone = fUnit := by decide +kernel

/-- One times a finite value is that value. -/
theorem fone_fmul {x : F} (hx : isfinite x = true) : fmul fone x = x := by
  have hmag : fmag x ≤ fInfMag := (of_decide_eq_true hx : fmag x < fInfMag).le
  have hneg : fneg? fone = false := by decide
  rw [fmul_of_finite (by decide) hx, hneg, fscaled_fone, fscaled_eq, Nat.mul_comm]
  refine F.ext_parts (by simp) ?_
  rw [fmag_roundF, roundMag_magValue fUnit_pos hmag]

theorem IsValue.one_fmul {x : F} (hx : isfinite x = true) : IsValue (fmul fone x) (fval x) := by
  rw [fone_fmul hx]
  exact .of_finite hx

/-! ### The filters at their reset coefficients -/

theorem lag1_of_lt {P : F → Prop} {c : F} {v : Nat → F} {i : Nat} (hc : P c) (hv : ∀ j, j < i → P (v j)) : P (lag1 c v i) := by
  cases i with
  | zero => exact hc
  | succ i => exact hv i (by omega)

theorem lag2_of_lt {P : F → Prop} {c1 c2 : F} {v : Nat → F} {i : Nat} (h1 : P c1) (h2 : P c2) (hv : ∀ j, j < i → P (v j)) :
    P (lag2 c1 c2 v i) := by
  cases i with
  | zero => exact h2
  | succ i =>
    rw [lag2_succ]
    exact lag1_of_lt h1 fun j hj => hv j (by omega)

theorem isfinite_zero : isfinite (0#64 : F) = true := by decide

/-- The single pole at its reset coefficients passes its input. -/
theorem passes_of_spRecurrence {x y : Nat → F} {n : Nat} (hx : ∀ i, i < n → isfinite (x i) = true)
    (hy : ∀ i, y i = fadd (fadd (fmul fone (x i)) (fmul 0#64 (lag1 0#64 x i))) (fmul 0#64 (lag1 0#64 y i))) (i : Nat)
    (hi : i < n) : IsValue (y i) (fval (x i)) := by
  induction i using Nat.strongRecOn with
  | ind i ih =>
    rw [hy]
    have hlagx : isfinite (lag1 0#64 x i) = true := lag1_of_lt (P := (isfinite · = true)) isfinite_zero fun j hj => hx j (by omega)
    have hlagy : isfinite (lag1 0#64 y i) = true :=
      lag1_of_lt (P := (isfinite · = true)) isfinite_zero fun j hj => (ih j hj (by omega)).1
    exact ((IsValue.one_fmul (hx i hi)).fadd_zero (IsValue.zero.zero_fmul hlagx)).fadd_zero (IsValue.zero.zero_fmul hlagy)

/-- A biquad section at its reset coefficients passes its input. -/
theorem passes_of_bqRecurrence {x y : Nat → F} {n : Nat} (hx : ∀ i, i < n → isfinite (x i) = true)
    (hy : ∀ i, y i = fsub (fsub (fadd (fadd (fmul fone (x i)) (fmul 0#64 (lag1 0#64 x i)))
      (fmul 0#64 (lag2 0#64 0#64 x i))) (fmul 0#64 (lag1 0#64 y i))) (fmul 0#64 (lag2 0#64 0#64 y i))) (i : Nat)
    (hi : i < n) : IsValue (y i) (fval (x i)) := by
  induction i using Nat.strongRecOn with
  | ind i ih =>
    rw [hy]
    have hbx : ∀ j, j < i → isfinite (x j) = true := fun j hj => hx j (by omega)
    have hby : ∀ j, j < i → isfinite (y j) = true := fun j hj => (ih j hj (by omega)).1
    have hzero : ∀ {v : Nat → F}, (∀ j, j < i → isfinite (v j) = true) →
        IsValue (fmul 0#64 (lag1 0#64 v i)) 0 ∧ IsValue (fmul 0#64 (lag2 0#64 0#64 v i)) 0 := fun hv =>
      ⟨IsValue.zero.zero_fmul (lag1_of_lt (P := (isfinite · = true)) isfinite_zero hv),
        IsValue.zero.zero_fmul (lag2_of_lt (P := (isfinite · = true)) isfinite_zero isfinite_zero hv)⟩
    obtain ⟨hx1, hx2⟩ := hzero hbx
    obtain ⟨hy1, hy2⟩ := hzero hby
    exact ((((IsValue.one_fmul (hx i hi)).fadd_zero hx1).fadd_zero hx2).fsub_zero hy1).fsub_zero hy2

/-- The state-variable filter at its reset coefficients keeps a zero state and passes its input to the high-pass output. -/
theorem passes_of_svfRecurrence {x hp bp lp : Nat → F} {n : Nat} (hx : ∀ i, i < n → isfinite (x i) = true)
    (hhp : ∀ i, hp i = fsub (fsub (x i) (fmul 0#64 (lag1 0#64 bp i))) (lag1 0#64 lp i))
    (hbp : ∀ i, bp i = fadd (fmul (hp i) 0#64) (lag1 0#64 bp i))
    (hlp : ∀ i, lp i = fadd (fmul (lag1 0#64 bp i) 0#64) (lag1 0#64 lp i)) (i : Nat) (hi : i < n) :
    IsValue (hp i) (fval (x i)) ∧ IsValue (bp i) 0 ∧ IsValue (lp i) 0 := by
  induction i using Nat.strongRecOn with
  | ind i ih =>
    have hlagb : IsValue (lag1 0#64 bp i) 0 := lag1_of_lt (P := (IsValue · 0)) .zero fun j hj => (ih j hj (by omega)).2.1
    have hlagl : IsValue (lag1 0#64 lp i) 0 := lag1_of_lt (P := (IsValue · 0)) .zero fun j hj => (ih j hj (by omega)).2.2
    have hhpi : IsValue (hp i) (fval (x i)) := by
      rw [hhp]
      exact ((IsValue.of_finite (hx i hi)).fsub_zero (IsValue.zero.zero_fmul hlagb.1)).fsub_zero hlagl
    refine ⟨hhpi, ?_, ?_⟩
    · rw [hbp]
      exact (IsValue.fmul_zero hhpi.1 .zero).fadd_zero hlagb
    · rw [hlp]
      exact (IsValue.fmul_zero hlagb.1 .zero).fadd_zero hlagl

/-- What a command's output block reads. -/
theorem overlay_map_range {n i : Nat} (hi : i < n) (a : Nat) (g : Nat → F) (old : Nat → F) :
    overlay a ((List.range n).map g) old (a + i) = g i := by
  rw [overlay_inside (by simpa using hi), at0_map_range _ _ _ hi]

/-- Settles O47: the recurrences at the reset coefficients. -/
theorem reset_filters_pass_finite_input : Obligations.reset_filters_pass_finite_input := by
  refine fun s hx => ⟨fun hf hsp => ?_, fun k hf hb => ?_, fun m a hm hf hsvf => ?_, fun m a hm hf hsvf => ?_⟩
  · obtain ⟨t, y, hexec, hy, -, hread⟩ := single_pole_processing s hf
    rw [hsp] at hy
    refine ⟨t, hexec, fun i hi => ?_⟩
    rw [hread, overlay_map_range hi]
    exact (passes_of_spRecurrence hx hy i hi).feq (.of_finite (hx i hi))
  · refine ⟨_, exec_of_no_fault hf, fun i hi => ?_⟩
    have hy := Biquad.unitOutput_eq (s.section k) s.inputSample
    rw [effect_bqProc, State.readDM_writeBlock_overlay, overlay_map_range hi]
    generalize unitOutput Biquad.sample (s.section k) s.inputSample = y at hy ⊢
    rw [hb] at hy
    exact (passes_of_bqRecurrence hx hy i hi).feq (.of_finite (hx i hi))
  all_goals
    obtain ⟨t, hp, bp, lp, br, hexec, hhp, hbp, hlp, hbr, -, hread⟩ := state_variable_processing s m hf
    rw [hsvf] at hhp hbp hlp
    have hpass := passes_of_svfRecurrence hx hhp hbp hlp
    refine ⟨t, hexec, fun i hi => ?_⟩
    obtain ⟨hhpi, hbpi, hlpi⟩ := hpass i hi
    have hxi := IsValue.of_finite (hx i hi)
    have hbri : IsValue (br i) (fval (s.inputSample i)) := hbr i ▸ hhpi.fadd_zero hlpi
    simp only [List.mem_cons, List.not_mem_nil, or_false, Prod.mk.injEq] at hm
    rcases hm with ⟨rfl, rfl⟩ | ⟨rfl, rfl⟩
  · exact ((hread _).trans (overlay_map_range hi _ hp _)) ▸ hhpi.feq hxi
  · exact ((hread _).trans (overlay_map_range hi _ br _)) ▸ hbri.feq hxi
  · exact ((hread _).trans (overlay_map_range hi _ bp _)) ▸ hbpi.feq .zero
  · exact ((hread _).trans (overlay_map_range hi _ lp _)) ▸ hlpi.feq .zero

end Sys2Proof.Machine
end

section
/-! A whole delay is a shift (42_delay_line.md R269). -/

namespace Sys2Proof.Machine

/-- A magnitude of at most `2^1022`. -/
def Small (x : F) : Prop := fmag x ≤ 0x7FD0000000000000

theorem Small.finite {x : F} (h : Small x) : isfinite x = true :=
  decide_eq_true (lt_of_le_of_lt (show fmag x ≤ _ from h) (by decide))

theorem Small.natAbs_fval_le {x : F} (h : Small x) : (fval x).natAbs ≤ magValue 0x7FD0000000000000 := by
  rw [fval_natAbs]
  exact magValue_strictMono.monotone h

theorem small_range : magValue 0x7FD0000000000000 + magValue 0x7FD0000000000000 < overflowAt * 1 := by decide +kernel

/-- The difference of two small values does not overflow. -/
theorem Small.isfinite_fsub {x y : F} (hx : Small x) (hy : Small y) : isfinite (fsub x y) = true := by
  rw [fsub_of_finite hx.finite hy.finite]
  refine (roundsTo_roundSum _ _).finite (lt_of_le_of_lt ?_ small_range)
  have h1 := hx.natAbs_fval_le
  have h2 := hy.natAbs_fval_le
  generalize magValue 0x7FD0000000000000 = m at h1 h2 ⊢
  omega

/-- With a zero fraction the interpolation gives the slot at the read position. -/
theorem interpolation_zero {frac x y : F} (hfrac : isZero frac = true) (hx : Small x) (hy : Small y) :
    IsValue (fadd x (fmul frac (fsub y x))) (fval x) :=
  (IsValue.of_finite hx.finite).fadd_zero ((IsValue.of_isZero hfrac).zero_fmul (hy.isfinite_fsub hx))

/-- A slot of a zeroed ring holds a zero or one of the values written. -/
theorem small_ringAfter {m wr p n : Nat} {x old : Nat → F} (hx : ∀ i, i < n → Small (x i)) (hold : old p = 0#64) :
    Small (ringAfter m wr x old n p) := by
  unfold ringAfter
  split
  · exact hx _ (by omega)
  · rw [hold]
    exact Nat.zero_le _

/-- The slot `d` places behind the one written last. -/
theorem ringAfter_behind {m wr d : Nat} (hd : d < m) (x old : Nat → F) (i : Nat) :
    ringAfter m wr x old (i + 1) ((wr + m - d + i) % m) =
      if d < i + 1 then x (i - d) else old ((wr + m - d + i) % m) := by
  have hp := Nat.mod_lt (wr + m - d + i) (show 0 < m by omega)
  have hq := Nat.mod_add_div (wr + m - d + i) m
  have hback : (wr + (i + 1) + m - 1 - (wr + m - d + i) % m) % m = d := by
    rw [show wr + (i + 1) + m - 1 - (wr + m - d + i) % m = d + m * ((wr + m - d + i) / m) by omega,
      Nat.add_mul_mod_self_left, Nat.mod_eq_of_lt hd]
  rw [ringAfter, hback, Nat.add_sub_cancel]

/-- Settles O39: the read position lies `d` slots behind the write position. -/
theorem whole_delay_is_an_exact_shift : Obligations.whole_delay_is_an_exact_shift := by
  intro s d hf hs hd hrd hfrac hzero hsmall
  obtain ⟨t, hexec, -, -, slot, hslot, hread⟩ := delay_line_processing s hf hs
  refine ⟨t, hexec, fun i hi => ?_⟩
  have hpos : 0 < s.dl.len.toNat := by omega
  have hslots : ∀ p, Small (slot i (p % s.dl.len.toNat)) := fun p => by
    rw [hslot]
    exact small_ringAfter (fun j hj => hsmall j (by omega)) (hzero _ (Nat.mod_lt _ hpos))
  have hout : slot i ((s.dl.rd.toNat + i) % s.dl.len.toNat) = if i < d then 0#64 else s.inputSample (i - d) := by
    rw [hslot, hrd, Nat.mod_add_mod, ringAfter_behind hd, hzero _ (Nat.mod_lt _ hpos)]
    by_cases h : i < d
    · rw [if_pos h, if_neg (by omega)]
    · rw [if_neg h, if_pos (by omega)]
  rw [hread, overlay_map_range hi, ← hout]
  exact (interpolation_zero hfrac (hslots _) (hslots _)).feq (.of_finite (hslots _).finite)

end Sys2Proof.Machine
end

section
/-! Peak and shelf designs at gain zero (43_iir_filters.md R320 to R322): numerator and denominator agree. -/

namespace Sys2Proof.Machine

/-! ### Neutral operands -/

theorem isNaN_cases {x : F} (h : isNaN x = false) : isfinite x = true ∨ isInf x = true := by
  simp only [isNaN, decide_eq_false_iff_not] at h
  simp only [isfinite, isInf, decide_eq_true_eq]
  omega

theorem fmag_of_isInf {x : F} (h : isInf x = true) : fmag x = fInfMag := of_decide_eq_true h

theorem fneg?_fone : fneg? fone = false := by decide
theorem isfinite_fone : isfinite fone = true := by decide
theorem isZero_fone : isZero fone = false := by decide

/-- One times anything but a NaN is that value. -/
theorem fone_fmul_number {x : F} (h : isNaN x = false) : fmul fone x = x := by
  rcases isNaN_cases h with hfin | hinf
  · exact fone_fmul hfin
  · simp only [fmul, isNaN_of_isfinite isfinite_fone, h, isInf_of_isfinite isfinite_fone, hinf, isZero_fone, fneg?_fone,
      Bool.or_self, Bool.false_eq_true, if_false, if_true, Bool.false_bne]
    rw [← fmag_of_isInf hinf, fpack_parts]

theorem fmul_fone {x : F} (hx : isfinite x = true) : fmul x fone = x := by
  have hcomm : fmul x fone = fmul fone x := by
    rw [fmul_of_finite hx isfinite_fone, fmul_of_finite isfinite_fone hx, bne_comm, Nat.mul_comm]
  rw [hcomm, fone_fmul hx]

theorem fdiv_fone {x : F} (hx : isfinite x = true) : fdiv x fone = x := by
  have hmag : fmag x ≤ fInfMag := (of_decide_eq_true hx : fmag x < fInfMag).le
  rw [fdiv_of_finite hx isfinite_fone isZero_fone, fneg?_fone, fscaled_fone, fscaled_eq]
  refine F.ext_parts (by simp) ?_
  rw [fmag_roundF, roundMag_magValue fUnit_pos hmag]

/-- A finite value that is not zero, over itself. -/
theorem fdiv_self {x : F} (hx : isfinite x = true) (h0 : isZero x = false) : fdiv x x = fone := by
  rw [fdiv_of_finite hx hx h0, ← fscaled_fone, Nat.mul_comm, fscaled_eq fone]
  refine F.ext_parts (by simp [fneg?_fone]) ?_
  rw [fmag_roundF, roundMag_magValue (fscaled_pos h0) (by decide)]

/-- Zero plus anything but a zero or a NaN. -/
theorem faddAs_zero_left (op : FOp) {y z : F} (hy : isNaN y = false) (hz : isNaN z = false) (h0 : isZero z = false) :
    faddAs op fzero y z = z := by
  have hzero : isNaN fzero = false ∧ isInf fzero = false := by decide
  rcases isNaN_cases hz with hfin | hinf
  · simp only [faddAs, hzero, hy, isInf_of_isfinite hfin, Bool.or_self, Bool.false_eq_true, if_false, fval_fzero, Int.zero_add,
      roundSum_fval _ hfin h0]
  · simp only [faddAs, hzero, hy, hinf, Bool.or_self, Bool.false_eq_true, if_false, if_true]

theorem fadd_fzero_left {x : F} (h : isNaN x = false) (h0 : isZero x = false) : fadd fzero x = x :=
  faddAs_zero_left _ h h h0

theorem fsub_fzero_left {x : F} (h : isNaN x = false) (h0 : isZero x = false) : fsub fzero x = flipSign x :=
  faddAs_zero_left _ h (by simpa using h) (by simpa [isZero] using h0)

/-- A zero of either sign added to or subtracted from a finite value that is not zero. -/
theorem fadd_of_zero {x z : F} (hx : isfinite x = true) (h0 : isZero x = false) (hz : IsValue z 0) :
    fadd x z = x ∧ fsub x z = x := by
  rw [fadd_of_finite hx hz.1, fsub_of_finite hx hz.1, hz.2, Int.add_zero, Int.sub_zero]
  exact ⟨roundSum_fval _ hx h0, roundSum_fval _ hx h0⟩

theorem isNaN_fmul_finite {x y : F} (hx : isfinite x = true) (hy : isfinite y = true) : isNaN (fmul x y) = false := by
  rw [fmul_of_finite hx hy, isNaN_roundF]

theorem isNaN_fmul_number_right {x y : F} (hx : isfinite x = true) (h0 : isZero x = false) (hy : isNaN y = false) :
    isNaN (fmul x y) = false := by
  cases h : isInf y <;> simp [fmul, hy, h, isNaN_of_isfinite hx, isInf_of_isfinite hx, h0, isNaN_fpack_inf]

theorem isNaN_fsub_finite {x y : F} (hx : isfinite x = true) (hy : isNaN y = false) : isNaN (fsub x y) = false := by
  cases h : isInf y <;> simp [fsub, faddAs, hy, h, isNaN_of_isfinite hx, isInf_of_isfinite hx]

theorem feq_self {x : F} (h : isNaN x = false) : feq x x = true := (feq_iff h h).2 rfl

theorem IsValue.zero_fdiv {x y : F} (hx : IsValue x 0) (hy : isfinite y = true) (h0 : isZero y = false) : IsValue (fdiv x y) 0 := by
  rw [fdiv_of_finite hx.1 hy h0, (fval_eq_zero_iff x).1 hx.2, Nat.zero_mul, roundF_zero]
  exact .of_isZero (isZero_signedZero _)

/-! ### The shelves' opposite products -/

/-- `-2.0`. -/
def minusTwo : F := 0xC000000000000000#64

theorem isfinite_twos : isfinite ftwo = true ∧ isfinite minusTwo = true := by decide

theorem fscaled_minusTwo : fscaled minusTwo = fscaled ftwo := congrArg magValue (by decide)

/-- Minus two times a value is two times its opposite. -/
theorem fmul_minusTwo {x : F} (h : isNaN x = false) : fmul minusTwo x = fmul ftwo (flipSign x) := by
  have hneg : fneg? minusTwo = true ∧ fneg? ftwo = false ∧ isZero minusTwo = false ∧ isZero ftwo = false := by decide
  obtain ⟨hfin2, hfinm⟩ := isfinite_twos
  rcases isNaN_cases h with hfin | hinf
  · rw [fmul_of_finite hfinm hfin, fmul_of_finite hfin2 (by simpa using hfin), fscaled_minusTwo, fscaled_flipSign,
      fneg?_flipSign, hneg.1, hneg.2.1, Bool.true_bne, Bool.false_bne]
  · simp only [fmul, isNaN_of_isfinite hfin2, isNaN_of_isfinite hfinm, isNaN_flipSign, isInf_flipSign, h, hinf, hneg,
      isInf_of_isfinite hfin2, isInf_of_isfinite hfinm, fneg?_flipSign, Bool.or_self, Bool.false_eq_true, if_false, if_true,
      Bool.true_bne, Bool.false_bne]

/-- `-2 * (0 + c)` and `2 * (0 - c)` over one divisor are one number. -/
theorem opposite_products {c a0 : F} (hc : isNaN c = false) (ha : isfinite a0 = true) (h0 : isZero a0 = false) :
    feq (fdiv (fmul minusTwo (fadd fzero c)) a0) (fdiv (fmul ftwo (fsub fzero c)) a0) = true ∧
      feq (fdiv (fmul ftwo (fsub fzero c)) a0) (fdiv (fmul minusTwo (fadd fzero c)) a0) = true := by
  obtain ⟨hfin2, hfinm⟩ := isfinite_twos
  by_cases hz : isZero c = true
  · have hzero := IsValue.of_isZero hz
    have hfzero : IsValue fzero 0 := .zero
    have h1 := (IsValue.fmul_zero hfinm (hfzero.fadd_zero hzero)).zero_fdiv ha h0
    have h2 := (IsValue.fmul_zero hfin2 (hfzero.fsub_zero hzero)).zero_fdiv ha h0
    exact ⟨h1.feq h2, h2.feq h1⟩
  · have hz := Bool.not_eq_true _ ▸ hz
    have hprod := isNaN_fmul_number_right hfinm (by decide) hc
    rw [fadd_fzero_left hc hz, fsub_fzero_left hc hz, ← fmul_minusTwo hc]
    exact ⟨feq_self (isNaN_fdiv_number hprod ha h0), feq_self (isNaN_fdiv_number hprod ha h0)⟩

/-! ### The three designs -/

/-- Raw coefficients that give a flat section with the divisor `a0`. -/
structure BqRaw.Flat (c : BqRaw) (a0 : F) : Prop where
  divisor : c.a0 = a0
  unit : c.b0 = a0
  one : feq (fdiv c.b1 a0) (fdiv c.a1 a0) = true
  two : feq (fdiv c.b2 a0) (fdiv c.a2 a0) = true

theorem flat_bqPeak {v : BqPre} (hamp : v.amp = fone) (hcw : isfinite v.cw = true) (hal : isfinite v.al = true)
    (ha : isfinite (fadd fone v.al) = true) (h0 : isZero (fadd fone v.al) = false) : (bqPeak v).Flat (fadd fone v.al) := by
  have hone : isNaN (minusTwoCw v) = false := isNaN_fmul_finite isfinite_twos.2 hcw
  have htwo : isNaN (fsub fone v.al) = false := isNaN_fsub_number (isNaN_of_isfinite isfinite_fone) hal
  simp only [bqPeak, hamp, fdiv_fone hal, fmul_fone hal]
  exact ⟨rfl, rfl, feq_self (isNaN_fdiv_number hone ha h0), feq_self (isNaN_fdiv_number htwo ha h0)⟩

/-- What the shelves compute from the amplitude 1. -/
theorem unit_amplitude {v : BqPre} (hamp : v.amp = fone) (hcw : isfinite v.cw = true) :
    ampPlus v = ftwo ∧ ampMinus v = fzero ∧ shelfRoot v = fmul ftwo v.al ∧ shelfDiff v = ftwo ∧ shelfSum v = ftwo := by
  have hplus : ampPlus v = ftwo := by rw [ampPlus, hamp]; decide +kernel
  have hminus : ampMinus v = fzero := by rw [ampMinus, hamp]; decide +kernel
  have hroot : fmul ftwo (fsqrt fone) = ftwo := by decide +kernel
  have hfzero : IsValue fzero 0 := .zero
  obtain ⟨hadd, hsub⟩ := fadd_of_zero (x := ftwo) (by decide) (by decide) (hfzero.zero_fmul hcw)
  exact ⟨hplus, hminus, by rw [shelfRoot, hamp, hroot], by rw [shelfDiff, hplus, hminus, hsub],
    by rw [shelfSum, hplus, hminus, hadd]⟩

theorem fmul_twos_fone : fmul ftwo fone = ftwo ∧ fmul minusTwo fone = minusTwo :=
  ⟨fmul_fone isfinite_twos.1, fmul_fone isfinite_twos.2⟩

theorem flat_shelves {v : BqPre} (hamp : v.amp = fone) (hcw : isfinite v.cw = true) (hal : isfinite v.al = true)
    (ha : isfinite (fadd ftwo (fmul ftwo v.al)) = true) (h0 : isZero (fadd ftwo (fmul ftwo v.al)) = false) :
    (bqLowShelf v).Flat (fadd ftwo (fmul ftwo v.al)) ∧ (bqHighShelf v).Flat (fadd ftwo (fmul ftwo v.al)) := by
  obtain ⟨hplus, hminus, hroot, hdiff, hsum⟩ := unit_amplitude hamp hcw
  have hc : isNaN (fmul ftwo v.cw) = false := isNaN_fmul_finite isfinite_twos.1 hcw
  have htwo : isNaN (fsub ftwo (fmul ftwo v.al)) = false :=
    isNaN_fsub_finite isfinite_twos.1 (isNaN_fmul_finite isfinite_twos.1 hal)
  obtain ⟨hlow, hhigh⟩ := opposite_products hc ha h0
  have hquot := feq_self (isNaN_fdiv_number htwo ha h0)
  have hunit := fone_fmul ha
  rw [bqLowShelf, bqHighShelf, hplus, hminus, hroot, hdiff, hsum, hamp, fmul_twos_fone.1, ← minusTwo, fmul_twos_fone.2, hunit,
    fone_fmul_number htwo]
  exact ⟨⟨rfl, rfl, hhigh, hquot⟩, ⟨rfl, rfl, hlow, hquot⟩⟩

/-- The amplitude of the gain zero. -/
theorem amp_zero_gain (p : Params) (fs fc q : F) {gain : F} (h : isZero gain = true) : (bqPre p fs fc q gain).amp = fone := by
  have hforty : (40 : Nat) ≤ 2 ^ 53 := by decide
  have hzero := (IsValue.of_isZero h).zero_fdiv (fofNat_exact hforty).1 (isZero_fofNat (by decide) hforty)
  refine npow10_zero p ?_
  rw [← fscaled_eq_zero, ← fval_eq_zero_iff, hzero.2]

/-- A flat design stored in section `k`. -/
theorem stored_flat {s : State} (hs : s.Inv) {k : Nat} (hk : k < s.params.nbq) {c : BqRaw} {a0 : F} (h : c.Flat a0)
    (ha : isfinite a0 = true) (h0 : isZero a0 = false) :
    ((s.storeSection k c).section k).b0 = fone ∧
      feq ((s.storeSection k c).section k).b1 ((s.storeSection k c).section k).a1 = true ∧
      feq ((s.storeSection k c).section k).b2 ((s.storeSection k c).section k).a2 = true := by
  rw [State.storeSection, hs.section_setSection hk, if_pos rfl]
  simp only [Biquad.store, h.divisor, h.unit, h.one, h.two, fdiv_self ha h0, and_self]

/-- Settles O45: the three designs are flat. -/
theorem zero_gain_is_flat : Obligations.zero_gain_is_flat := by
  rintro s k v hk hs hgain hv hcw hal c hc ha h0
  have hamp : v.amp = fone := by rw [hv]; exact amp_zero_gain _ _ _ _ hgain
  simp only [List.mem_cons, List.not_mem_nil, or_false] at hc
  obtain rfl | rfl | rfl := hc
  all_goals refine ⟨_, exec_of_section rfl hk, ?_⟩
  · exact stored_flat hs hk (hv ▸ flat_bqPeak hamp hcw hal ha h0) ha h0
  · exact stored_flat hs hk (hv ▸ (flat_shelves hamp hcw hal ha h0).1) ha h0
  · exact stored_flat hs hk (hv ▸ (flat_shelves hamp hcw hal ha h0).2) ha h0

end Sys2Proof.Machine
end
